-- ==== Sys2Proof/Word.lean ====
section
/-! DEFINITION. The two word types of the block: the byte (00_scope.md section 6.1) and the
3-bit operation select code of the consumer port (30_encoding.md R63). -/

namespace Sys2Proof

/-- A byte: 8 bits, bit 0 the least significant (spec decision D30). -/
abbrev Byte := BitVec 8

/-- The select code `cmd_op[2:0]` of the consumer port (R63). -/
abbrev Cmd := BitVec 3

end Sys2Proof
end

