-- ==== Sys2Proof/Config.lean ====
section
/-! DEFINITION. The implementation parameters of 00_scope.md R3: fixed when the block is built,
never changed afterwards. A model takes them as configuration; here they are one record of plain
data, which State carries and no step writes, so that a statement for every state is a statement
for every configuration. The default instance is in Machine/Tables.lean. -/

namespace Sys2Proof

/-- The twelve keys of the extended-key table, in the order of 10_state.md R20. -/
inductive ExtKey where
  | insert | home | pageUp | delete | endKey | pageDown
  | up | left | down | right | kpSlash | kpEnter
  deriving DecidableEq, Repr

/-- One byte for each of the twelve extended keys: their scan codes, or their output bytes. -/
structure PerKey where
  insert : Byte
  home : Byte
  pageUp : Byte
  delete : Byte
  endKey : Byte
  pageDown : Byte
  up : Byte
  left : Byte
  down : Byte
  right : Byte
  kpSlash : Byte
  kpEnter : Byte
  deriving DecidableEq, Repr

/-- The parameters of R3. `extCode` and `extOut` together are the table `EXT` (R20): the scan code
and the output byte of each of its twelve keys. The ten sentinels `K_INSERT` .. `K_RIGHT` are the
first ten fields of `extOut` (R56). -/
structure Config where
  /-- `N`, the number of slots of the ring buffer (R10). -/
  N : Nat
  /-- `T_U`, the unshifted lookup table (R18). -/
  tU : List Byte
  /-- `T_S`, the shifted lookup table (R18). -/
  tS : List Byte
  /-- The scan codes of the extended keys (R57). -/
  extCode : PerKey
  /-- The output bytes of the extended keys (R56, R57). -/
  extOut : PerKey
  /-- `FLUSH_CLEARS_CACHE` (R122). -/
  flushClearsCache : Bool
  /-- `SHIFT_MAKE_CLEARS_PREFIX` (R84, R85). -/
  shiftMakeClearsPrefix : Bool
  /-- `BAUD`, passed on to the serial receiver by BEGIN (R123). -/
  baud : Nat
  /-- `FRAMING`, an uninterpreted code passed on to the serial receiver by BEGIN (R123, R141). -/
  framing : Nat
  deriving DecidableEq, Repr

end Sys2Proof
end

