-- ==== Sys2Proof/Machine/Tables.lean ====
section
/-! DEFINITION. Reading the lookup tables (30_encoding.md R54, 10_state.md R20) and the default
instance of every parameter (00_scope.md R3, 30_encoding.md R56 to R58). -/

namespace Sys2Proof

/-- The twelve keys in the order of R20. -/
def ExtKey.all : List ExtKey :=
  [.insert, .home, .pageUp, .delete, .endKey, .pageDown,
   .up, .left, .down, .right, .kpSlash, .kpEnter]

/-- The ten keys whose output byte is a sentinel (R56). -/
def ExtKey.special : List ExtKey :=
  [.insert, .home, .pageUp, .delete, .endKey, .pageDown, .up, .left, .down, .right]

/-- The byte a record of twelve holds for one key. -/
def PerKey.get (p : PerKey) : ExtKey → Byte
  | .insert => p.insert
  | .home => p.home
  | .pageUp => p.pageUp
  | .delete => p.delete
  | .endKey => p.endKey
  | .pageDown => p.pageDown
  | .up => p.up
  | .left => p.left
  | .down => p.down
  | .right => p.right
  | .kpSlash => p.kpSlash
  | .kpEnter => p.kpEnter

/-- The extended key whose scan code is `s`, if there is one. -/
def Config.keyOf (cfg : Config) (s : Byte) : Option ExtKey :=
  ExtKey.all.find? (fun k => cfg.extCode.get k == s)

/-- The table `EXT` (R20, R57): a total function on bytes, 0 for a code of none of the twelve keys. -/
def Config.ext (cfg : Config) (s : Byte) : Byte :=
  match cfg.keyOf s with
  | some k => cfg.extOut.get k
  | none => 0#8

/-- The bounds-checked table read of R54: the index is the scan code itself, and a code at or above
128 reads no table and resolves to 0. -/
def tableRead (table : List Byte) (s : Byte) : Byte :=
  if s.toNat < 128 then table[s.toNat]?.getD 0#8 else 0#8

/-- `T_U[s]`, bounds-checked (R54). -/
def Config.unshifted (cfg : Config) (s : Byte) : Byte := tableRead cfg.tU s

/-- `T_S[s]`, bounds-checked (R54). -/
def Config.shifted (cfg : Config) (s : Byte) : Byte := tableRead cfg.tS s

/-- `W = ceil(log2 N)`, the width of the index registers (R11, R12). -/
def Config.indexWidth (cfg : Config) : Nat := Nat.clog 2 cfg.N

/-- One row of sixteen table entries, as R58 prints them. -/
def tableRow (entries : List Nat) : List Byte := entries.map (BitVec.ofNat 8)

/-- `T_U` of `DEFAULT_US` (R58). -/
def defaultTU : List Byte :=
  tableRow [0x00, 0x00, 0x00, 0x00, 0x00, 0x00, 0x00, 0x00, 0x00, 0x00, 0x00, 0x00, 0x00, 0x09, 0x60, 0x00] ++
  tableRow [0x00, 0x00, 0x00, 0x00, 0x00, 0x71, 0x31, 0x00, 0x00, 0x00, 0x7A, 0x73, 0x61, 0x77, 0x32, 0x00] ++
  tableRow [0x00, 0x63, 0x78, 0x64, 0x65, 0x34, 0x33, 0x00, 0x00, 0x20, 0x76, 0x66, 0x74, 0x72, 0x35, 0x00] ++
  tableRow [0x00, 0x6E, 0x62, 0x68, 0x67, 0x79, 0x36, 0x00, 0x00, 0x00, 0x6D, 0x6A, 0x75, 0x37, 0x38, 0x00] ++
  tableRow [0x00, 0x2C, 0x6B, 0x69, 0x6F, 0x30, 0x39, 0x00, 0x00, 0x2E, 0x2F, 0x6C, 0x3B, 0x70, 0x2D, 0x00] ++
  tableRow [0x00, 0x00, 0x27, 0x00, 0x5B, 0x3D, 0x00, 0x00, 0x00, 0x00, 0x0D, 0x5D, 0x00, 0x5C, 0x00, 0x00] ++
  tableRow [0x00, 0x00, 0x00, 0x00, 0x00, 0x00, 0x08, 0x00, 0x00, 0x31, 0x00, 0x34, 0x37, 0x00, 0x00, 0x00] ++
  tableRow [0x30, 0x2E, 0x32, 0x35, 0x36, 0x38, 0x1B, 0x00, 0x00, 0x2B, 0x33, 0x2D, 0x2A, 0x39, 0x00, 0x00]

/-- `T_S` of `DEFAULT_US` (R58). -/
def defaultTS : List Byte :=
  tableRow [0x00, 0x00, 0x00, 0x00, 0x00, 0x00, 0x00, 0x00, 0x00, 0x00, 0x00, 0x00, 0x00, 0x09, 0x7E, 0x00] ++
  tableRow [0x00, 0x00, 0x00, 0x00, 0x00, 0x51, 0x21, 0x00, 0x00, 0x00, 0x5A, 0x53, 0x41, 0x57, 0x40, 0x00] ++
  tableRow [0x00, 0x43, 0x58, 0x44, 0x45, 0x24, 0x23, 0x00, 0x00, 0x20, 0x56, 0x46, 0x54, 0x52, 0x25, 0x00] ++
  tableRow [0x00, 0x4E, 0x42, 0x48, 0x47, 0x59, 0x5E, 0x00, 0x00, 0x00, 0x4D, 0x4A, 0x55, 0x26, 0x2A, 0x00] ++
  tableRow [0x00, 0x3C, 0x4B, 0x49, 0x4F, 0x29, 0x28, 0x00, 0x00, 0x3E, 0x3F, 0x4C, 0x3A, 0x50, 0x5F, 0x00] ++
  tableRow [0x00, 0x00, 0x22, 0x00, 0x7B, 0x2B, 0x00, 0x00, 0x00, 0x00, 0x0D, 0x7D, 0x00, 0x7C, 0x00, 0x00] ++
  tableRow [0x00, 0x00, 0x00, 0x00, 0x00, 0x00, 0x08, 0x00, 0x00, 0x31, 0x00, 0x34, 0x37, 0x00, 0x00, 0x00] ++
  tableRow [0x30, 0x2E, 0x32, 0x35, 0x36, 0x38, 0x1B, 0x00, 0x00, 0x2B, 0x33, 0x2D, 0x2A, 0x39, 0x00, 0x00]

/-- The scan codes of the default instance of `EXT` (R57). -/
def defaultExtCode : PerKey where
  insert := 0x70#8
  home := 0x6C#8
  pageUp := 0x7D#8
  delete := 0x71#8
  endKey := 0x69#8
  pageDown := 0x7A#8
  up := 0x75#8
  left := 0x6B#8
  down := 0x72#8
  right := 0x74#8
  kpSlash := 0x4A#8
  kpEnter := 0x5A#8

/-- The output bytes of the default instance of `EXT`: the sentinels of R56, and the two ordinary
characters of keypad-`/` and keypad-Enter. -/
def defaultExtOut : PerKey where
  insert := 0x80#8
  home := 0x81#8
  pageUp := 0x82#8
  delete := 0x83#8
  endKey := 0x84#8
  pageDown := 0x85#8
  up := 0x86#8
  left := 0x87#8
  down := 0x88#8
  right := 0x89#8
  kpSlash := 0x2F#8
  kpEnter := 0x0D#8

/-- Every parameter at the default of R3. `framing` has no default in the spec: its 0 stands for
nothing and no statement rests on it (DESIGN CHOICE, log entry 3). -/
def Config.default : Config where
  N := 16
  tU := defaultTU
  tS := defaultTS
  extCode := defaultExtCode
  extOut := defaultExtOut
  flushClearsCache := false
  shiftMakeClearsPrefix := true
  baud := 19200
  framing := 0

end Sys2Proof
end

