-- ==== Sys2Proof/Syntax.lean ====
section
/-! DEFINITION. One constructor for each of the thirty rows of spec/opcode_table.json, in the
table's order: the producer's PUSH (format P), the eight codes of the consumer port (format C), and
the twenty-one classes of scan-code word (format S). 30_encoding.md R67 says how the table is read. -/

namespace Sys2Proof

/-- An instruction: an operation on one of the block's ports, or a scan-code word as the decoder
classifies it. An operand is the received byte `d` of PUSH, or the scan-code word `s` of a class
that more than one word belongs to. -/
inductive Instr where
  /-- PUSH (R70). -/
  | push (d : Byte)
  /-- POP (R71). -/
  | pop
  /-- CLEAR (R72). -/
  | clear
  /-- DECODE (R80). -/
  | decode
  /-- AVAILABLE (R120). -/
  | available
  /-- READ (R121). -/
  | read
  /-- FLUSH (R122). -/
  | flush
  /-- BEGIN (R123). -/
  | beginOp
  /-- The reserved select code 7 (R64). -/
  | rsvd7
  /-- SC.BRK, the break prefix (R81). -/
  | scBrk
  /-- SC.EXT, the extended prefix (R82). -/
  | scExt
  /-- SC.REL, release of key `s` (R83). -/
  | scRel (s : Byte)
  /-- SC.LSH, left-shift press (R84). -/
  | scLsh
  /-- SC.RSH, right-shift press (R85). -/
  | scRsh
  /-- SC.X.INSERT (R88). -/
  | scXInsert
  /-- SC.X.HOME (R89). -/
  | scXHome
  /-- SC.X.PAGEUP (R90). -/
  | scXPageup
  /-- SC.X.DELETE (R91). -/
  | scXDelete
  /-- SC.X.END (R92). -/
  | scXEnd
  /-- SC.X.PAGEDOWN (R93). -/
  | scXPagedown
  /-- SC.X.UP (R94). -/
  | scXUp
  /-- SC.X.LEFT (R95). -/
  | scXLeft
  /-- SC.X.DOWN (R96). -/
  | scXDown
  /-- SC.X.RIGHT (R97). -/
  | scXRight
  /-- SC.X.KPSLASH (R98). -/
  | scXKpslash
  /-- SC.X.KPENTER (R99). -/
  | scXKpenter
  /-- SC.XNONE, an extended code that is none of the twelve (R100). -/
  | scXnone (s : Byte)
  /-- SC.HIGH, a code outside the tables (R103). -/
  | scHigh (s : Byte)
  /-- SC.KEYS, shifted lookup (R101). -/
  | scKeys (s : Byte)
  /-- SC.KEYU, unshifted lookup (R102). -/
  | scKeyu (s : Byte)
  deriving DecidableEq, Repr

end Sys2Proof
end

