-- ==== Sys2Proof/WellFormed.lean ====
section
/-! DEFINITION. Which instructions and which configurations the spec admits: the operand ranges of
30_encoding.md R51, and the constraints of 00_scope.md R3, 10_state.md R19 and R20, and
30_encoding.md R56 on the parameters. -/

namespace Sys2Proof

/-- `s` is a key-identifying code: neither of the two prefixes (R52). -/
def isKeyCode (s : Byte) : Bool := s != 0xF0#8 && s != 0xE0#8

/-- `s` is a key-identifying code the decoder looks up: not one of the two shift keys either (R51,
tests 1, 2, 4 and 5). -/
def isLookupCode (s : Byte) : Bool := isKeyCode s && s != 0x12#8 && s != 0x59#8

/-- The scan code of `k` selects the class `SC.X.<k>`: it is looked up, it finds `k`, and `k` has an
output (R51, test 6). -/
def Config.keyReachable (cfg : Config) (k : ExtKey) : Bool :=
  isLookupCode (cfg.extCode.get k) && cfg.keyOf (cfg.extCode.get k) == some k &&
    cfg.ext (cfg.extCode.get k) != 0#8

/-- The operands a row of the opcode table admits, under a configuration. -/
def Instr.wf (cfg : Config) : Instr → Bool
  | .push _ => true
  | .pop => true
  | .clear => true
  | .decode => true
  | .available => true
  | .read => true
  | .flush => true
  | .beginOp => true
  | .rsvd7 => true
  | .scBrk => true
  | .scExt => true
  | .scRel s => isKeyCode s
  | .scLsh => true
  | .scRsh => true
  | .scXInsert => cfg.keyReachable .insert
  | .scXHome => cfg.keyReachable .home
  | .scXPageup => cfg.keyReachable .pageUp
  | .scXDelete => cfg.keyReachable .delete
  | .scXEnd => cfg.keyReachable .endKey
  | .scXPagedown => cfg.keyReachable .pageDown
  | .scXUp => cfg.keyReachable .up
  | .scXLeft => cfg.keyReachable .left
  | .scXDown => cfg.keyReachable .down
  | .scXRight => cfg.keyReachable .right
  | .scXKpslash => cfg.keyReachable .kpSlash
  | .scXKpenter => cfg.keyReachable .kpEnter
  | .scXnone s => isLookupCode s && cfg.ext s == 0#8
  | .scHigh s => isKeyCode s && decide (128 ≤ s.toNat)
  | .scKeys s => isLookupCode s && decide (s.toNat < 128)
  | .scKeyu s => isLookupCode s && decide (s.toNat < 128)

/-- The lookup tables: 128 entries each (R18), the two entries the source fixes, and 0 in `T_U` for
Ctrl, Alt and Caps Lock (R19; the codes 0x14, 0x11 and 0x58 of these keys are general knowledge). -/
def Config.tablesWf (cfg : Config) : Bool :=
  decide (cfg.tU.length = 128) && decide (cfg.tS.length = 128) &&
  cfg.unshifted 0x1C#8 == 0x61#8 && cfg.shifted 0x1C#8 == 0x41#8 &&
  cfg.unshifted 0x14#8 == 0#8 && cfg.unshifted 0x11#8 == 0#8 && cfg.unshifted 0x58#8 == 0#8

/-- The extended-key table: twelve different scan codes with non-zero outputs (R20), the ten
sentinels at or above 128 and pairwise different (R56), Up at 0x75 with an output of its own (R19). -/
def Config.extWf (cfg : Config) : Bool :=
  decide ((ExtKey.all.map cfg.extCode.get).Nodup) &&
  ExtKey.all.all (fun k => cfg.extOut.get k != 0#8) &&
  ExtKey.special.all (fun k => decide (128 ≤ (cfg.extOut.get k).toNat)) &&
  decide ((ExtKey.special.map cfg.extOut.get).Nodup) &&
  cfg.extCode.up == 0x75#8 &&
  cfg.extOut.up != cfg.unshifted 0x75#8 && cfg.extOut.up != cfg.shifted 0x75#8

/-- The constraints on the parameters: at least two slots (R3, R10), and the tables. -/
def Config.wf (cfg : Config) : Bool :=
  decide (2 ≤ cfg.N) && cfg.tablesWf && cfg.extWf

/-- The proviso of 70_reset_and_hazards.md R167, which the block does not check: every sentinel at or
above 128, the ten pairwise different, and no table entry a sentinel. Two points R167 leaves open are
settled the strict way (DESIGN CHOICE, log entry 29, safe). It does not say which tables: `EXT` is taken
as one of them, so that the outputs of keypad-`/` and keypad-Enter are no sentinels either. It lets an
entry be a sentinel where "that key is meant to produce it", and no parameter says which keys are
meant: only the ten special keys in `EXT` are, and no entry of `T_U` and `T_S`. `NONE` is outside `0 .. 255` for every configuration (`CharResult.widen`). -/
def Config.keepsApart (cfg : Config) : Bool :=
  ExtKey.special.all (fun k => decide (128 ≤ (cfg.extOut.get k).toNat)) &&
  decide ((ExtKey.special.map cfg.extOut.get).Nodup) &&
  ExtKey.special.all (fun k => !cfg.tU.contains (cfg.extOut.get k) && !cfg.tS.contains (cfg.extOut.get k)) &&
  ExtKey.special.all (fun k => cfg.extOut.get k != cfg.extOut.kpSlash && cfg.extOut.get k != cfg.extOut.kpEnter)

end Sys2Proof
end

