-- ==== Sys2Proof/Decode.lean ====
section
/-! DEFINITION. From a port and a byte to an instruction (30_encoding.md R51, R62, R63), total, with
the rejected bytes named; the encoder beside it; and the rows of spec/opcode_table.json as data
(R67). A scan-code word is classified by its value and three bits of context, so its port carries
them. -/

namespace Sys2Proof

/-- The three bits of context a scan-code word is classified under, read before the word acts (R67):
BREAK, MODIFIER, and SHIFT = SHIFT_LEFT or SHIFT_RIGHT. -/
structure Context where
  brk : Bool
  modifier : Bool
  shift : Bool
  deriving DecidableEq, Repr

/-- Where an instruction's byte comes in: `rx_data` of the producer port (R62), `cmd_op` of the
consumer port (R63), or the ring buffer, under a context (R50). -/
inductive Port where
  | producer
  | consumer
  | scan (c : Context)
  deriving DecidableEq, Repr

/-- Why a byte is rejected. -/
inductive DecodeError where
  /-- The consumer port has three lines: a byte above 7 is no `cmd_op` (R63). -/
  | notACommandCode
  deriving DecidableEq, Repr

/-- The operation a select code names (R63). -/
def decodeCmd (op : Cmd) : Instr :=
  if op = 0#3 then .pop
  else if op = 1#3 then .clear
  else if op = 2#3 then .decode
  else if op = 3#3 then .available
  else if op = 4#3 then .read
  else if op = 5#3 then .flush
  else if op = 6#3 then .beginOp
  else .rsvd7

/-- The row `SC.X.<key>` of an extended key. -/
def Instr.ofKey : ExtKey → Instr
  | .insert => .scXInsert
  | .home => .scXHome
  | .pageUp => .scXPageup
  | .delete => .scXDelete
  | .endKey => .scXEnd
  | .pageDown => .scXPagedown
  | .up => .scXUp
  | .left => .scXLeft
  | .down => .scXDown
  | .right => .scXRight
  | .kpSlash => .scXKpslash
  | .kpEnter => .scXKpenter

/-- An extended code: one of the twelve keys when `EXT(s) != 0`, else SC.XNONE (R51, tests 6 and 7). -/
def decodeExtended (cfg : Config) (s : Byte) : Instr :=
  if cfg.ext s = 0#8 then .scXnone s
  else match cfg.keyOf s with
    | some k => Instr.ofKey k
    | none => .scXnone s

/-- The class of a scan-code word: the ten tests of R51 in their order, the first that holds
deciding. -/
def decodeWord (cfg : Config) (c : Context) (s : Byte) : Instr :=
  if s = 0xF0#8 then .scBrk
  else if s = 0xE0#8 then .scExt
  else if c.brk = true then .scRel s
  else if s = 0x12#8 then .scLsh
  else if s = 0x59#8 then .scRsh
  else if c.modifier = true then decodeExtended cfg s
  else if 128 ≤ s.toNat then .scHigh s
  else if c.shift = true then .scKeys s
  else .scKeyu s

/-- The decoder: total on every port and byte. -/
def decode (cfg : Config) : Port → Byte → Except DecodeError Instr
  | .producer, b => .ok (.push b)
  | .consumer, b => if b.toNat < 8 then .ok (decodeCmd (b.setWidth 3)) else .error .notACommandCode
  | .scan c, b => .ok (decodeWord cfg c b)

/-- The byte of an instruction, from the `match` column of the opcode table (R63, R67); for an
extended key the key's scan code in the table `EXT` (R57). -/
def encode (cfg : Config) : Instr → Byte
  | .push d => d
  | .pop => 0#8
  | .clear => 1#8
  | .decode => 2#8
  | .available => 3#8
  | .read => 4#8
  | .flush => 5#8
  | .beginOp => 6#8
  | .rsvd7 => 7#8
  | .scBrk => 0xF0#8
  | .scExt => 0xE0#8
  | .scRel s => s
  | .scLsh => 0x12#8
  | .scRsh => 0x59#8
  | .scXInsert => cfg.extCode.insert
  | .scXHome => cfg.extCode.home
  | .scXPageup => cfg.extCode.pageUp
  | .scXDelete => cfg.extCode.delete
  | .scXEnd => cfg.extCode.endKey
  | .scXPagedown => cfg.extCode.pageDown
  | .scXUp => cfg.extCode.up
  | .scXLeft => cfg.extCode.left
  | .scXDown => cfg.extCode.down
  | .scXRight => cfg.extCode.right
  | .scXKpslash => cfg.extCode.kpSlash
  | .scXKpenter => cfg.extCode.kpEnter
  | .scXnone s => s
  | .scHigh s => s
  | .scKeys s => s
  | .scKeyu s => s

/-- The port is the producer's. -/
def Port.isProducer : Port → Bool
  | .producer => true
  | .consumer => false
  | .scan _ => false

/-- The port is the consumer's. -/
def Port.isConsumer : Port → Bool
  | .producer => false
  | .consumer => true
  | .scan _ => false

/-- The port is the ring buffer's, under a context that meets a row's context columns. -/
def Port.isScan (columns : Context → Bool) : Port → Bool
  | .producer => false
  | .consumer => false
  | .scan c => columns c

/-- The context columns of an extended code: BREAK 0, MODIFIER 1, SHIFT x. -/
def Context.extended (c : Context) : Bool := !c.brk && c.modifier

/-- The context columns of a plain code: BREAK 0, MODIFIER 0, SHIFT x. -/
def Context.plain (c : Context) : Bool := !c.brk && !c.modifier

/-- The ports on which a row of the opcode table applies, with its context columns for the
scan-code words (R67). -/
def Instr.onPort (p : Port) : Instr → Bool
  | .push _ => p.isProducer
  | .pop => p.isConsumer
  | .clear => p.isConsumer
  | .decode => p.isConsumer
  | .available => p.isConsumer
  | .read => p.isConsumer
  | .flush => p.isConsumer
  | .beginOp => p.isConsumer
  | .rsvd7 => p.isConsumer
  | .scBrk => p.isScan (fun _ => true)
  | .scExt => p.isScan (fun _ => true)
  | .scRel _ => p.isScan (fun c => c.brk)
  | .scLsh => p.isScan (fun c => !c.brk)
  | .scRsh => p.isScan (fun c => !c.brk)
  | .scXInsert => p.isScan Context.extended
  | .scXHome => p.isScan Context.extended
  | .scXPageup => p.isScan Context.extended
  | .scXDelete => p.isScan Context.extended
  | .scXEnd => p.isScan Context.extended
  | .scXPagedown => p.isScan Context.extended
  | .scXUp => p.isScan Context.extended
  | .scXLeft => p.isScan Context.extended
  | .scXDown => p.isScan Context.extended
  | .scXRight => p.isScan Context.extended
  | .scXKpslash => p.isScan Context.extended
  | .scXKpenter => p.isScan Context.extended
  | .scXnone _ => p.isScan Context.extended
  | .scHigh _ => p.isScan Context.plain
  | .scKeys _ => p.isScan (fun c => c.plain && c.shift)
  | .scKeyu _ => p.isScan (fun c => c.plain && !c.shift)

/-! ## The opcode table as data (R67) -/

/-- One format-S row: `s & mask == match` and the context columns, `none` for an `x`; the priority
is the order of R51. -/
structure ScanRow where
  instr : Byte → Instr
  mtch : Byte
  mask : Byte
  brk : Option Bool
  modifier : Option Bool
  shift : Option Bool
  priority : Nat

/-- The twelve SC.X rows share their context and priority and have no operand. -/
def ScanRow.extended (i : Instr) (code : Byte) : ScanRow :=
  ⟨fun _ => i, code, 0xFF#8, some false, some true, none, 6⟩

/-- The twenty-one format-S rows of spec/opcode_table.json, in its order. -/
def scanRows : List ScanRow :=
  [⟨fun _ => .scBrk, 0xF0#8, 0xFF#8, none, none, none, 1⟩,
   ⟨fun _ => .scExt, 0xE0#8, 0xFF#8, none, none, none, 2⟩,
   ⟨fun s => .scRel s, 0x00#8, 0x00#8, some true, none, none, 3⟩,
   ⟨fun _ => .scLsh, 0x12#8, 0xFF#8, some false, none, none, 4⟩,
   ⟨fun _ => .scRsh, 0x59#8, 0xFF#8, some false, none, none, 5⟩,
   ScanRow.extended .scXInsert 0x70#8,
   ScanRow.extended .scXHome 0x6C#8,
   ScanRow.extended .scXPageup 0x7D#8,
   ScanRow.extended .scXDelete 0x71#8,
   ScanRow.extended .scXEnd 0x69#8,
   ScanRow.extended .scXPagedown 0x7A#8,
   ScanRow.extended .scXUp 0x75#8,
   ScanRow.extended .scXLeft 0x6B#8,
   ScanRow.extended .scXDown 0x72#8,
   ScanRow.extended .scXRight 0x74#8,
   ScanRow.extended .scXKpslash 0x4A#8,
   ScanRow.extended .scXKpenter 0x5A#8,
   ⟨fun s => .scXnone s, 0x00#8, 0x00#8, some false, some true, none, 7⟩,
   ⟨fun s => .scHigh s, 0x80#8, 0x80#8, some false, some false, none, 8⟩,
   ⟨fun s => .scKeys s, 0x00#8, 0x80#8, some false, some false, some true, 9⟩,
   ⟨fun s => .scKeyu s, 0x00#8, 0x80#8, some false, some false, some false, 10⟩]

/-- A context column holds: an `x` always, a value when it is the current one. -/
def columnHolds (column : Option Bool) (current : Bool) : Bool :=
  match column with
  | none => true
  | some v => v == current

/-- A row applies to a word under a context (R67). -/
def ScanRow.applies (r : ScanRow) (c : Context) (s : Byte) : Bool :=
  (s &&& r.mask) == r.mtch &&
    columnHolds r.brk c.brk && columnHolds r.modifier c.modifier && columnHolds r.shift c.shift

/-- The rows that apply and whose priority is the lowest among those that apply. -/
def selectedRows (c : Context) (s : Byte) : List ScanRow :=
  let rows := scanRows.filter (fun r => r.applies c s)
  rows.filter (fun r => rows.all (fun q => decide (r.priority ≤ q.priority)))

/-! ## The host's one-word reading of the table

The table's rows of the three formats share their bit patterns, and no bit of a word says which
port it stands on; log entry 16 says how the port is chosen. -/

/-- The context a bare scan-code word is read under: MODIFIER for the code of one of the twelve
extended keys of the default `EXT`, whose rows give the whole byte; no flag for any other. -/
def tableContext (b : Byte) : Context :=
  ⟨false, (Config.default.keyOf b).isSome, false⟩

/-- The port a table word stands on: more than eight bits are given to PUSH, the codes below 8 are
`cmd_op` values, and every other byte is a scan-code word. -/
def tablePort (nbits : Nat) (b : Byte) : Port :=
  if 8 < nbits then .producer
  else if b.toNat < 8 then .consumer
  else .scan (tableContext b)

/-- The instruction the decoder reads from a table word. Bits above the byte are no bits of an
instruction: bit 8 of a word of more than eight bits is the table's own (its field `width`) and is
not read. -/
def decodeTableWord (nbits w : Nat) : Option Instr :=
  if w < 2 ^ nbits ∧ w < 512 then
    (decode Config.default (tablePort nbits (BitVec.ofNat 8 w)) (BitVec.ofNat 8 w)).toOption
  else none

end Sys2Proof
end

