-- ==== Sys2Proof/Machine/State.lean ====
section
/-! DEFINITION. The state of the block (10_state.md section 1), with the consumer operation in
progress (40_ring_buffer.md R76), the ports (30_encoding.md R62, R63, 60_exceptions.md R141) and the
trace lines still to come (R65), all as plain data; the reasons a step can stop; and cold reset
(R25, R150). -/

namespace Sys2Proof.Machine

/-- Nothing in the block faults (R130: no operation raises an exception, traps, faults or halts,
under any input and in any state), so there is no constructor and none is raised. Safe. -/
inductive Fault where
  deriving DecidableEq, Repr

/-- The executions the spec gives no behaviour to and a model has no step for (R130). -/
inductive Refusal where
  /-- Raised by `exec`'s arm of an instruction that has no meaning yet. Safe: nothing can be proved
  of what it does. -/
  | notModelled (mnemonic : String)
  /-- Raised by RSVD7 and by a trace line with the select code 7, which selects no operation (R64).
  Safe. -/
  | reservedCommand
  /-- Raised by a consumer operation that starts, or by a micro-step of another operation, while a
  consumer operation is in progress (R157). Safe. -/
  | overlappingConsumer
  deriving DecidableEq, Repr

/-- The four decoder flags of `STATE` (R15). Their packing is `Flags.pack` (R61). -/
structure Flags where
  brk : Bool
  modifier : Bool
  shiftLeft : Bool
  shiftRight : Bool
  deriving DecidableEq, Repr

/-- The result of POP (R6). -/
inductive RawResult where
  | empty
  | byte (b : Byte)
  deriving DecidableEq, Repr

/-- The result of DECODE and READ (R6). -/
inductive CharResult where
  | none
  | char (c : Byte)
  deriving DecidableEq, Repr

/-- The response port of the consumer (R63): the result of the consumer operation that ended last. -/
inductive Response where
  /-- No operation has ended yet. -/
  | noResponse
  /-- The result of POP. -/
  | raw (r : RawResult)
  /-- The result of DECODE or READ. -/
  | char (r : CharResult)
  /-- The result of AVAILABLE. -/
  | bool (b : Bool)
  /-- CLEAR, FLUSH or BEGIN ended: they have no result. -/
  | done
  deriving DecidableEq, Repr

/-- The operation on whose behalf the decoder runs (R80: DECODE, or AVAILABLE or READ without a
cached character). -/
inductive DecodeUser where
  | decode
  | available
  | read
  deriving DecidableEq, Repr

/-- The operation on whose behalf a POP runs: POP itself, or the decoder's loop. -/
inductive PopUser where
  | direct
  | word (u : DecodeUser)
  deriving DecidableEq, Repr

/-- The operation on whose behalf a CLEAR runs (R72, R122). -/
inductive ClearUser where
  | clear
  | flush
  deriving DecidableEq, Repr

/-- How far the consumer operation in progress has come: the micro-step it performs next (R76), with
its locals. -/
inductive Ctl where
  /-- No consumer operation is in progress. -/
  | idle
  /-- Before POP.1, which compares `HEAD` with `TAIL`. -/
  | popHead (u : PopUser)
  /-- Before POP.2, which reads the slot. -/
  | popSlot (u : PopUser)
  /-- Before POP.3, which writes `TAIL`; `b` is the byte read. -/
  | popTail (u : PopUser) (b : Byte)
  /-- Before CLEAR.1, which reads `HEAD`. -/
  | clearHead (u : ClearUser)
  /-- Before CLEAR.2, which writes `TAIL`; `h` is the value read. -/
  | clearTail (u : ClearUser) (h : Nat)
  /-- Before BEGIN.1, which issues the configuration request. -/
  | beginCfg
  /-- Before BEGIN.2, which writes `HEAD`. -/
  | beginHead
  /-- Before BEGIN.3, which writes `TAIL`. -/
  | beginTail
  deriving DecidableEq, Repr

/-- A configuration request to the serial receiver (R141: `cfg_baud`, `cfg_framing`). -/
structure CfgRequest where
  baud : Nat
  framing : Nat
  deriving DecidableEq, Repr

/-- One line of a trace (R65): what the outside does next. -/
inductive Input where
  /-- `P: PUSH b`, a receive event (R62). -/
  | rx (b : Byte)
  /-- `C: <operation>`, a whole consumer operation with no PUSH inside it (R63). -/
  | cmd (op : Cmd)
  /-- `C: <operation>.<n>`, the next micro-step of the consumer operation, its first when none is in
  progress (R76). -/
  | micro (op : Cmd)
  deriving DecidableEq, Repr

/-- Byte storage in canonical form: addresses strictly rising, no entry that an unlisted address
reads as (`Memory.wf` in Machine/Ops.lean). -/
abbrev Memory := List Host.Cell

/-- The state of the block and of its ports. -/
structure State where
  /-- The parameters (R3), which no step writes. -/
  cfg : Config
  /-- `BUF` (R10): the address is the slot index. -/
  buf : Memory
  /-- `HEAD`, the last written slot (R11). -/
  head : Nat
  /-- `TAIL`, the last read slot (R12). -/
  tail : Nat
  /-- `STATE`, the decoder flags (R15). -/
  flags : Flags
  /-- `CACHE` (R22). -/
  cache : Byte
  /-- `CACHE_VALID` (R22). -/
  cacheValid : Bool
  /-- The consumer operation in progress (R76). -/
  ctl : Ctl
  /-- The response port (R63). -/
  rsp : Response
  /-- The configuration requests issued so far, oldest first (R141). -/
  cfgOut : List CfgRequest
  /-- The trace lines still to come, the next one first. The model's own field: it says which agent
  acts next (R39). -/
  inputs : List Input
  deriving DecidableEq, Repr

/-- No prefix pending, no shift held. -/
def Flags.clear : Flags := ⟨false, false, false, false⟩

/-- Cold reset (R25, R150): `HEAD` and `TAIL` 0, all flags 0, `CACHE_VALID` 0. `BUF` and `CACHE` are
unspecified there and fixed to 0x00 here (DESIGN CHOICE, log entries 4 and 5). No operation is in
progress, nothing has been answered or requested, and no trace line is given (log entries 6, 9, 12,
13). The configuration is the default instance (log entries 1 to 3). -/
def State.reset : State where
  cfg := Config.default
  buf := []
  head := 0
  tail := 0
  flags := Flags.clear
  cache := 0x00#8
  cacheValid := false
  ctl := .idle
  rsp := .noResponse
  cfgOut := []
  inputs := []

end Sys2Proof.Machine
end

