-- ==== Sys2Proof/Machine/Flags.lean ====
section
/-! DEFINITION. Every computation on the decoder flags: the context the word classification reads
(30_encoding.md R51), the prefix, release and shift updates (41_decoder.md R81 to R85, R104), and the
packing of `STATE` (R61). -/

namespace Sys2Proof.Machine

/-- SHIFT of the classification: `SHIFT_LEFT or SHIFT_RIGHT` (R67, R86). -/
def Flags.shift (f : Flags) : Bool := f.shiftLeft || f.shiftRight

/-- The context of R51. -/
def Flags.context (f : Flags) : Context := ⟨f.brk, f.modifier, f.shift⟩

/-- `STATE.BREAK <- 1` (R81). -/
def Flags.setBreak (f : Flags) : Flags := { f with brk := true }

/-- `STATE.MODIFIER <- 1` (R82). -/
def Flags.setModifier (f : Flags) : Flags := { f with modifier := true }

/-- `STATE.BREAK <- 0; STATE.MODIFIER <- 0` (R104). -/
def Flags.clearPrefix (f : Flags) : Flags := { f with brk := false, modifier := false }

/-- The release of key `s` (R83): its shift latch, then both prefix flags. -/
def Flags.release (f : Flags) (s : Byte) : Flags :=
  { brk := false
    modifier := false
    shiftLeft := if s = 0x12#8 then false else f.shiftLeft
    shiftRight := if s = 0x59#8 then false else f.shiftRight }

/-- `if SHIFT_MAKE_CLEARS_PREFIX then STATE.MODIFIER <- 0` (R84, R85). -/
def Flags.afterShiftMake (f : Flags) (clearsPrefix : Bool) : Flags :=
  if clearsPrefix then { f with modifier := false } else f

/-- The left-shift press (R84). -/
def Flags.pressLeft (f : Flags) (clearsPrefix : Bool) : Flags :=
  Flags.afterShiftMake { f with shiftLeft := true } clearsPrefix

/-- The right-shift press (R85). -/
def Flags.pressRight (f : Flags) (clearsPrefix : Bool) : Flags :=
  Flags.afterShiftMake { f with shiftRight := true } clearsPrefix

/-- `STATE[3:0]`: bit 0 BREAK, bit 1 MODIFIER, bit 2 SHIFT_LEFT, bit 3 SHIFT_RIGHT (R61). -/
def Flags.pack (f : Flags) : BitVec 4 :=
  BitVec.ofNat 4
    (f.brk.toNat + 2 * f.modifier.toNat + 4 * f.shiftLeft.toNat + 8 * f.shiftRight.toNat)

/-- The flags a value of `STATE[3:0]` stands for (R61). -/
def Flags.unpack (v : BitVec 4) : Flags :=
  ⟨v.getLsbD 0, v.getLsbD 1, v.getLsbD 2, v.getLsbD 3⟩

end Sys2Proof.Machine
end

