-- ==== Sys2Proof/Machine/Operands.lean ====
section
/-! DEFINITION. What a scan-code word resolves to (41_decoder.md R86), and the forms in which a
result leaves the block (30_encoding.md R59, R63). -/

namespace Sys2Proof.Machine

/-- `RESOLVE(s)` (R80, R86): the multiplexer over `EXT`, `T_S` and `T_U`; it reads the flags and
writes nothing. -/
def resolve (cfg : Config) (f : Flags) (s : Byte) : Byte :=
  if f.modifier = true then cfg.ext s
  else if f.shift = true then cfg.shifted s
  else cfg.unshifted s

/-- The READ result as one 16-bit integer (R59): a character zero-extended, `None` as 0xFFFF. -/
def CharResult.widen : CharResult → BitVec 16
  | .char c => c.setWidth 16
  | .none => 0xFFFF#16

/-- `rsp_present` (R63). Where the table leaves it unspecified (no operation has ended) it has no
value. -/
def Response.present : Response → Option Bool
  | .noResponse => none
  | .raw .empty => some false
  | .raw (.byte _) => some true
  | .char .none => some false
  | .char (.char _) => some true
  | .bool b => some b
  | .done => some false

/-- `rsp_data` (R63). Where the table says "unspecified" it has no value. -/
def Response.data : Response → Option Byte
  | .noResponse => none
  | .raw .empty => none
  | .raw (.byte b) => some b
  | .char .none => none
  | .char (.char c) => some c
  | .bool _ => none
  | .done => none

end Sys2Proof.Machine
end

