-- ==== Sys2Proof/Machine/Ops.lean ====
section
/-! DEFINITION. The named operations over the storage and the registers, which every meaning is
written with: the byte memory in canonical form, the ring of slots (20_memory.md R34, 10_state.md
R13), one PUSH and one POP (40_ring_buffer.md R70, R71), the end of a consumer operation
(30_encoding.md R63), and the decoder's `continue` and `return` (41_decoder.md R105). The block takes
no exception (R130), so there is no operation for taking one. -/

namespace Sys2Proof.Machine

/-- The outcome of a meaning. -/
abbrev Out := Host.Outcome State Fault Refusal

/-! ## Byte memory -/

/-- What a slot that nothing has written reads as: the spec leaves it open and no operation ever
reads one (R28). DESIGN CHOICE, log entry 4. -/
def Memory.unlisted : Byte := 0x00#8

/-- The byte at an address. -/
def Memory.read (m : Memory) (a : Nat) : Byte :=
  match m with
  | [] => Memory.unlisted
  | (k, v) :: rest => if a = k then v else Memory.read rest a

/-- One byte written, the canonical form kept: writing what an unlisted address reads as removes the
entry. -/
def Memory.write (m : Memory) (a : Nat) (b : Byte) : Memory :=
  match m with
  | [] => if b = Memory.unlisted then [] else [(a, b)]
  | (k, v) :: rest =>
    if a < k then (if b = Memory.unlisted then (k, v) :: rest else (a, b) :: (k, v) :: rest)
    else if a = k then (if b = Memory.unlisted then rest else (a, b) :: rest)
    else (k, v) :: Memory.write rest a b

/-- The canonical form, every address at or above a bound. -/
def Memory.wfFrom (lo : Nat) : Memory → Bool
  | [] => true
  | (k, v) :: rest => decide (lo ≤ k) && v != Memory.unlisted && Memory.wfFrom (k + 1) rest

/-- The canonical form: addresses strictly rising, no entry equal to what an unlisted address reads
as. -/
def Memory.wf (m : Memory) : Bool := Memory.wfFrom 0 m

/-- Every listed address is a slot of the ring buffer (R10, R45). -/
def Memory.below (n : Nat) (m : Memory) : Bool := m.all (fun c => decide (c.1 < n))

/-! ## The ring -/

/-- The successor of a slot: `(i + 1) mod N` (R34). -/
def State.succIndex (s : State) (i : Nat) : Nat := (i + 1) % s.cfg.N

/-- The slot the next PUSH writes. -/
def State.nextHead (s : State) : Nat := s.succIndex s.head

/-- The slot the next POP reads. -/
def State.nextTail (s : State) : Nat := s.succIndex s.tail

/-- The number of unread bytes, `(HEAD - TAIL) mod N` (R13). -/
def State.occupancy (s : State) : Nat := (s.head + s.cfg.N - s.tail) % s.cfg.N

/-- The unread bytes, oldest first: `BUF[(TAIL+1) mod N]` up to and including `BUF[HEAD]` (R13). -/
def State.unread (s : State) : List Byte :=
  (List.range s.occupancy).map (fun i => s.buf.read ((s.tail + 1 + i) % s.cfg.N))

/-- The fullness test of PUSH (R14, R70). -/
def State.full (s : State) : Bool := decide (s.nextHead = s.tail)

/-- PUSH (R70): the byte is stored at the next slot and `HEAD` follows it, or it is dropped. -/
def State.pushByte (s : State) (b : Byte) : State :=
  if s.nextHead = s.tail then s
  else { s with buf := s.buf.write s.nextHead b, head := s.nextHead }

/-- The byte POP reads (R71). -/
def State.peekByte (s : State) : Byte := s.buf.read s.nextTail

/-- `TAIL <- next` of POP (R71). -/
def State.advanceTail (s : State) : State := { s with tail := s.nextTail }

/-- `TAIL <- HEAD` of CLEAR (R72), `HEAD` having been read as `h`. -/
def State.setTail (s : State) (h : Nat) : State := { s with tail := h }

/-- The request of BEGIN to the serial receiver (R123, R141). -/
def State.issueConfig (s : State) : State :=
  { s with cfgOut := s.cfgOut ++ [⟨s.cfg.baud, s.cfg.framing⟩] }

/-! ## Consumer operations -/

/-- A consumer operation ends with its response (R63). -/
def State.finish (s : State) (r : Response) : State := { s with ctl := .idle, rsp := r }

/-- A consumer operation runs only when none is in progress (R157). -/
def State.whenIdle (s : State) (run : Out) : Out :=
  if s.ctl = .idle then run else .refused .overlappingConsumer

/-- On whose behalf the POP in progress runs; a direct DECODE where none is in progress, so that a
scan-code word has a meaning in every state (log entry 15). -/
def Ctl.decodeUser : Ctl → DecodeUser
  | .popHead (.word u) => u
  | .popSlot (.word u) => u
  | .popTail (.word u) _ => u
  | .popHead .direct => .decode
  | .popSlot .direct => .decode
  | .popTail .direct _ => .decode
  | .idle => .decode
  | .clearHead _ => .decode
  | .clearTail _ _ => .decode
  | .beginCfg => .decode
  | .beginHead => .decode
  | .beginTail => .decode

/-- DECODE returned `None` (R106): so do DECODE and READ, and AVAILABLE answers `false` (R120,
R121). -/
def State.answerNone (s : State) : DecodeUser → State
  | .decode => s.finish (.char .none)
  | .read => s.finish (.char .none)
  | .available => s.finish (.bool false)

/-- DECODE returned `Char(c)`: so do DECODE and READ (R80, R121), and AVAILABLE keeps the character
and answers `true` (R120). -/
def State.answerChar (s : State) (c : Byte) : DecodeUser → State
  | .decode => s.finish (.char (.char c))
  | .read => s.finish (.char (.char c))
  | .available => State.finish { s with cache := c, cacheValid := true } (.bool true)

/-- POP found the ring buffer empty (R71, R106). -/
def State.answerEmpty (s : State) : PopUser → State
  | .direct => s.finish (.raw .empty)
  | .word u => s.answerNone u

/-- `continue` of R80: the decoder's loop starts over with the next POP. -/
def State.continueLoop (s : State) : State :=
  { s with ctl := .popHead (.word s.ctl.decodeUser) }

/-- The end of a looked-up word (R105): a non-zero byte is the decoded character, a zero byte
continues the loop. -/
def State.emit (s : State) (c : Byte) : State :=
  if c = 0#8 then s.continueLoop else s.answerChar c s.ctl.decodeUser

/-- After RESOLVE (R104, R105): both prefix flags are cleared, then `c` is emitted. -/
def State.resolved (s : State) (c : Byte) : State :=
  State.emit { s with flags := s.flags.clearPrefix } c

/-- The context a scan-code word is classified under. -/
def State.context (s : State) : Context := s.flags.context

/-- `if FLUSH_CLEARS_CACHE then CACHE_VALID <- 0` (R122). -/
def State.flushCache (s : State) : State :=
  if s.cfg.flushClearsCache then { s with cacheValid := false } else s

/-- The end of CLEAR, or of the CLEAR inside FLUSH (R72, R122). -/
def State.endClear (s : State) : ClearUser → State
  | .clear => s.finish .done
  | .flush => s.flushCache.finish .done

end Sys2Proof.Machine
end

