-- ==== Sys2Proof/Machine/Words.lean ====
section
/-! DEFINITION. The twenty-one classes of scan-code word (41_decoder.md R81 to R103): what the
decoder does with a word it has popped and classified. A class ends either in `continue`
(`State.continueLoop`) or in the return of a character to the operation the decoder runs for
(`State.answerChar`). -/

namespace Sys2Proof.Machine

/-- SC.BRK (R81). -/
def execScBrk (s : State) : Out :=
  .next (State.continueLoop { s with flags := s.flags.setBreak })

/-- SC.EXT (R82). -/
def execScExt (s : State) : Out :=
  .next (State.continueLoop { s with flags := s.flags.setModifier })

/-- SC.REL (R83). -/
def execScRel (w : Byte) (s : State) : Out :=
  .next (State.continueLoop { s with flags := s.flags.release w })

/-- SC.LSH (R84). -/
def execScLsh (s : State) : Out :=
  .next (State.continueLoop { s with flags := s.flags.pressLeft s.cfg.shiftMakeClearsPrefix })

/-- SC.RSH (R85). -/
def execScRsh (s : State) : Out :=
  .next (State.continueLoop { s with flags := s.flags.pressRight s.cfg.shiftMakeClearsPrefix })

/-- The template of R87 for one of the twelve keys: its scan code is looked up in `EXT`. -/
def State.extendedKey (s : State) (k : ExtKey) : State :=
  s.resolved (s.cfg.ext (s.cfg.extCode.get k))

/-- SC.X.INSERT (R88). -/
def execScXInsert (s : State) : Out := .next (s.extendedKey .insert)

/-- SC.X.HOME (R89). -/
def execScXHome (s : State) : Out := .next (s.extendedKey .home)

/-- SC.X.PAGEUP (R90). -/
def execScXPageup (s : State) : Out := .next (s.extendedKey .pageUp)

/-- SC.X.DELETE (R91). -/
def execScXDelete (s : State) : Out := .next (s.extendedKey .delete)

/-- SC.X.END (R92). -/
def execScXEnd (s : State) : Out := .next (s.extendedKey .endKey)

/-- SC.X.PAGEDOWN (R93). -/
def execScXPagedown (s : State) : Out := .next (s.extendedKey .pageDown)

/-- SC.X.UP (R94). -/
def execScXUp (s : State) : Out := .next (s.extendedKey .up)

/-- SC.X.LEFT (R95). -/
def execScXLeft (s : State) : Out := .next (s.extendedKey .left)

/-- SC.X.DOWN (R96). -/
def execScXDown (s : State) : Out := .next (s.extendedKey .down)

/-- SC.X.RIGHT (R97). -/
def execScXRight (s : State) : Out := .next (s.extendedKey .right)

/-- SC.X.KPSLASH (R98). -/
def execScXKpslash (s : State) : Out := .next (s.extendedKey .kpSlash)

/-- SC.X.KPENTER (R99). -/
def execScXKpenter (s : State) : Out := .next (s.extendedKey .kpEnter)

/-- SC.XNONE (R100): `c <- 0`, with no fall-back to the lookup tables. -/
def execScXnone (_w : Byte) (s : State) : Out := .next (s.resolved 0#8)

/-- SC.HIGH (R103): `c <- 0`, no table is read. -/
def execScHigh (_w : Byte) (s : State) : Out := .next (s.resolved 0#8)

/-- SC.KEYS (R101): `c <- T_S[s]`. -/
def execScKeys (w : Byte) (s : State) : Out := .next (s.resolved (s.cfg.shifted w))

/-- SC.KEYU (R102): `c <- T_U[s]`. -/
def execScKeyu (w : Byte) (s : State) : Out := .next (s.resolved (s.cfg.unshifted w))

end Sys2Proof.Machine
end

