-- ==== Sys2Proof/Machine/Decoder.lean ====
section
/-! DEFINITION. DECODE (41_decoder.md R80): the loop of POPs, each word run as the class the decoder
reads from it. -/

namespace Sys2Proof.Machine

/-- One word the decoder has popped: it is classified under the flags (R51) and its class acts. The
last nine arms are never taken, a scan-code word being never decoded to an operation of a port. -/
def runWord (w : Byte) (s : State) : Out :=
  match decodeWord s.cfg s.context w with
  | .scBrk => execScBrk s
  | .scExt => execScExt s
  | .scRel v => execScRel v s
  | .scLsh => execScLsh s
  | .scRsh => execScRsh s
  | .scXInsert => execScXInsert s
  | .scXHome => execScXHome s
  | .scXPageup => execScXPageup s
  | .scXDelete => execScXDelete s
  | .scXEnd => execScXEnd s
  | .scXPagedown => execScXPagedown s
  | .scXUp => execScXUp s
  | .scXLeft => execScXLeft s
  | .scXDown => execScXDown s
  | .scXRight => execScXRight s
  | .scXKpslash => execScXKpslash s
  | .scXKpenter => execScXKpenter s
  | .scXnone v => execScXnone v s
  | .scHigh v => execScHigh v s
  | .scKeys v => execScKeys v s
  | .scKeyu v => execScKeyu v s
  | .push _ => .next s
  | .pop => .next s
  | .clear => .next s
  | .decode => .next s
  | .available => .next s
  | .read => .next s
  | .flush => .next s
  | .beginOp => .next s
  | .rsvd7 => .next s

/-- The decoder's loop with no PUSH inside it (R80, R109), for at most `fuel` POPs. Where the fuel
ends, the operation is still in progress, as it is between two micro-steps; with the indices in
`0 .. N-1` and fuel `N` it never does (log entry 18). -/
def decodeLoop (fuel : Nat) (s : State) : Out :=
  match fuel with
  | 0 => .next s
  | fuel + 1 =>
    if s.head = s.tail then .next (s.answerNone s.ctl.decodeUser)
    else
      match runWord s.peekByte s.advanceTail with
      | .next t => if t.ctl = .idle then .next t else decodeLoop fuel t
      | .fault f => .fault f
      | .refused r => .refused r

/-- The decoder invoked once on behalf of an operation. -/
def State.runDecoder (s : State) (u : DecodeUser) : Out :=
  decodeLoop s.cfg.N { s with ctl := .popHead (.word u) }

/-- DECODE (R80). -/
def execDecode (s : State) : Out := s.whenIdle (s.runDecoder .decode)

end Sys2Proof.Machine
end

