-- ==== Sys2Proof/Machine/Facade.lean ====
section
/-! DEFINITION. The facade as whole operations: AVAILABLE, READ, FLUSH and BEGIN (42_facade.md R120
to R123). -/

namespace Sys2Proof.Machine

/-- AVAILABLE (R120). -/
def execAvailable (s : State) : Out :=
  s.whenIdle (
    if s.cacheValid = true then .next (s.finish (.bool true))
    else s.runDecoder .available)

/-- READ with a cached character (R121): the character is returned and the cache emptied. -/
def State.takeCached (s : State) : State :=
  State.finish { s with cacheValid := false } (.char (.char s.cache))

/-- READ (R121). -/
def execRead (s : State) : Out :=
  s.whenIdle (
    if s.cacheValid = true then .next s.takeCached
    else s.runDecoder .read)

/-- FLUSH (R122). -/
def execFlush (s : State) : Out :=
  s.whenIdle (.next ((s.setTail s.head).flushCache.finish .done))

/-- BEGIN (R123): the request to the receiver, then both indices to 0. -/
def execBegin (s : State) : Out :=
  s.whenIdle (.next (State.finish { s.issueConfig with head := 0, tail := 0 } .done))

end Sys2Proof.Machine
end

