-- ==== Sys2Proof/Machine/RingBuffer.lean ====
section
/-! DEFINITION. The ring-buffer operations as whole operations: PUSH, POP and CLEAR
(40_ring_buffer.md R70 to R72), and the reserved code of the consumer port (30_encoding.md R64). -/

namespace Sys2Proof.Machine

/-- PUSH (R70): atomic, between any two micro-steps of the consumer (R39), those of a BEGIN included
(R158 lets a model admit it; log entry 11). -/
def execPush (d : Byte) (s : State) : Out := .next (s.pushByte d)

/-- POP (R71). -/
def execPop (s : State) : Out :=
  s.whenIdle (.next (
    if s.head = s.tail then s.finish (.raw .empty)
    else s.advanceTail.finish (.raw (.byte s.peekByte))))

/-- CLEAR (R72). -/
def execClear (s : State) : Out :=
  s.whenIdle (.next ((s.setTail s.head).finish .done))

/-- The reserved select code 7 (R64): it selects no operation, and a model refuses it. -/
def execRsvd7 (_s : State) : Out := .refused .reservedCommand

end Sys2Proof.Machine
end

