-- ==== Sys2Proof/Machine/Dispatch.lean ====
section
/-! DEFINITION. The meaning of every instruction, one arm each. -/

namespace Sys2Proof.Machine

def exec (i : Instr) (s : State) : Host.Outcome State Fault Refusal :=
  match i with
  | .push d => Sys2Proof.Machine.execPush d s
  | .pop => Sys2Proof.Machine.execPop s
  | .clear => Sys2Proof.Machine.execClear s
  | .decode => Sys2Proof.Machine.execDecode s
  | .available => Sys2Proof.Machine.execAvailable s
  | .read => Sys2Proof.Machine.execRead s
  | .flush => Sys2Proof.Machine.execFlush s
  | .beginOp => Sys2Proof.Machine.execBegin s
  | .rsvd7 => Sys2Proof.Machine.execRsvd7 s
  | .scBrk => Sys2Proof.Machine.execScBrk s
  | .scExt => Sys2Proof.Machine.execScExt s
  | .scRel w => Sys2Proof.Machine.execScRel w s
  | .scLsh => Sys2Proof.Machine.execScLsh s
  | .scRsh => Sys2Proof.Machine.execScRsh s
  | .scXInsert => Sys2Proof.Machine.execScXInsert s
  | .scXHome => Sys2Proof.Machine.execScXHome s
  | .scXPageup => Sys2Proof.Machine.execScXPageup s
  | .scXDelete => Sys2Proof.Machine.execScXDelete s
  | .scXEnd => Sys2Proof.Machine.execScXEnd s
  | .scXPagedown => Sys2Proof.Machine.execScXPagedown s
  | .scXUp => Sys2Proof.Machine.execScXUp s
  | .scXLeft => Sys2Proof.Machine.execScXLeft s
  | .scXDown => Sys2Proof.Machine.execScXDown s
  | .scXRight => Sys2Proof.Machine.execScXRight s
  | .scXKpslash => Sys2Proof.Machine.execScXKpslash s
  | .scXKpenter => Sys2Proof.Machine.execScXKpenter s
  | .scXnone w => Sys2Proof.Machine.execScXnone w s
  | .scHigh w => Sys2Proof.Machine.execScHigh w s
  | .scKeys w => Sys2Proof.Machine.execScKeys w s
  | .scKeyu w => Sys2Proof.Machine.execScKeyu w s

end Sys2Proof.Machine
end

