-- ==== Sys2Proof/Machine/Micro.lean ====
section
/-! DEFINITION. The consumer operations as the micro-steps of 40_ring_buffer.md R76, between which
PUSHes may run (20_memory.md R39). Work on consumer-private state is attached to the micro-step
before it. -/

namespace Sys2Proof.Machine

/-- The operation a select code names is issued: it stands before its first micro-step. AVAILABLE
and READ with a cached character have no micro-step and end at once (R76). -/
def State.start (s : State) (op : Cmd) : State :=
  if op = 0#3 then { s with ctl := .popHead .direct }
  else if op = 1#3 then { s with ctl := .clearHead .clear }
  else if op = 2#3 then { s with ctl := .popHead (.word .decode) }
  else if op = 3#3 then
    (if s.cacheValid = true then s.finish (.bool true) else { s with ctl := .popHead (.word .available) })
  else if op = 4#3 then
    (if s.cacheValid = true then s.takeCached else { s with ctl := .popHead (.word .read) })
  else if op = 5#3 then { s with ctl := .clearHead .flush }
  else if op = 6#3 then { s with ctl := .beginCfg }
  else s

/-- The end of POP.3: a direct POP returns the byte, the decoder runs the word. -/
def State.popped (s : State) (b : Byte) : PopUser → Out
  | .direct => .next (s.finish (.raw (.byte b)))
  | .word _ => runWord b s

/-- The next micro-step of the consumer operation in progress (R76); nothing when none is. -/
def State.microStep (s : State) : Out :=
  match s.ctl with
  | .idle => .next s
  | .popHead u =>
    .next (if s.head = s.tail then s.answerEmpty u else { s with ctl := .popSlot u })
  | .popSlot u => .next { s with ctl := .popTail u s.peekByte }
  | .popTail u b => s.advanceTail.popped b u
  | .clearHead u => .next { s with ctl := .clearTail u s.head }
  | .clearTail u h => .next ((s.setTail h).endClear u)
  | .beginCfg => .next { s.issueConfig with ctl := .beginHead }
  | .beginHead => .next { s with head := 0, ctl := .beginTail }
  | .beginTail => .next (State.finish { s with tail := 0 } .done)

/-- The select code of the operation the decoder runs for (R63). -/
def DecodeUser.code : DecodeUser → Cmd
  | .decode => 2#3
  | .available => 3#3
  | .read => 4#3

/-- The select code of the operation a POP runs for (R63). -/
def PopUser.code : PopUser → Cmd
  | .direct => 0#3
  | .word u => u.code

/-- The select code of the operation a CLEAR runs for (R63). -/
def ClearUser.code : ClearUser → Cmd
  | .clear => 1#3
  | .flush => 5#3

/-- The select code of the operation in progress. -/
def Ctl.code : Ctl → Option Cmd
  | .idle => none
  | .popHead u => some u.code
  | .popSlot u => some u.code
  | .popTail u _ => some u.code
  | .clearHead u => some u.code
  | .clearTail u _ => some u.code
  | .beginCfg => some 6#3
  | .beginHead => some 6#3
  | .beginTail => some 6#3

/-- One micro-step line of a trace, `C: <operation>.<n>` (R65): the first micro-step of an operation
when none is in progress, else the next one of the operation in progress, which must be that
operation (R157). -/
def State.microLine (s : State) (op : Cmd) : Out :=
  if op = 7#3 then .refused .reservedCommand
  else if s.ctl = .idle then (s.start op).microStep
  else if s.ctl.code = some op then s.microStep
  else .refused .overlappingConsumer

end Sys2Proof.Machine
end

