-- ==== Sys2Proof/Machine/Trace.lean ====
section
/-! DEFINITION. Traces (30_encoding.md R65, R66): the pseudo-operations and their expansions, and how
one instruction is placed so that the next step runs it. -/

namespace Sys2Proof.Machine

/-- The pseudo-operations of R66, named for the keyboard event they imitate. -/
inductive Pseudo where
  | make (k : Byte)
  | brk (k : Byte)
  | xmake (k : Byte)
  | xbrk (k : Byte)
  | tap (k : Byte)
  | xtap (k : Byte)
  deriving DecidableEq, Repr

/-- The bytes a pseudo-operation stands for (R66). -/
def Pseudo.bytes : Pseudo → List Byte
  | .make k => [k]
  | .brk k => [0xF0#8, k]
  | .xmake k => [0xE0#8, k]
  | .xbrk k => [0xE0#8, 0xF0#8, k]
  | .tap k => [k, 0xF0#8, k]
  | .xtap k => [0xE0#8, k, 0xE0#8, 0xF0#8, k]

/-- The producer lines a pseudo-operation abbreviates (R66): independent PUSHes. -/
def Pseudo.expand (p : Pseudo) : List Input := p.bytes.map Input.rx

/-- The flags under which the decoder reads a scan-code word as the instruction `i`: the context
columns of `i`'s row (R67), every flag the row does not name as it was. -/
def Flags.forRow (f : Flags) (i : Instr) : Flags :=
  let c := f.context
  if i.onPort (.scan c) then f
  else if i.onPort (.scan ⟨true, c.modifier, c.shift⟩) then { f with brk := true }
  else if i.onPort (.scan ⟨false, c.modifier, c.shift⟩) then { f with brk := false }
  else if i.onPort (.scan ⟨false, true, c.shift⟩) then { f with brk := false, modifier := true }
  else if i.onPort (.scan ⟨false, false, c.shift⟩) then { f with brk := false, modifier := false }
  else if i.onPort (.scan ⟨false, false, true⟩) then ⟨false, false, true, f.shiftRight⟩
  else Flags.clear

/-- A scan-code word placed where the decoder fetches its next one: in the slot after `TAIL`, unread,
a direct DECODE having read it and standing before the write of `TAIL` (R71, R76). -/
def State.placeWord (s : State) (i : Instr) (w : Byte) : State :=
  { s with
    buf := s.buf.write s.nextTail w
    head := if s.head = s.tail then s.nextTail else s.head
    flags := s.flags.forRow i
    ctl := .popTail (.word .decode) w
    inputs := .micro 2#3 :: s.inputs }

/-- One instruction placed so that the next step runs it: a transaction on its port is the next
trace line and no consumer operation is in progress; a scan-code word is placed before the decoder. -/
def State.placeInstr (s : State) (i : Instr) (b : Byte) : State :=
  if i.onPort .producer then { s with ctl := .idle, inputs := .rx b :: s.inputs }
  else if i.onPort .consumer then { s with ctl := .idle, inputs := .cmd (b.setWidth 3) :: s.inputs }
  else s.placeWord i b

end Sys2Proof.Machine
end

