-- ==== Sys2Proof/Machine/Step.lean ====
section
/-! DEFINITION. One step of the block: one element of its execution sequence (20_memory.md R39), a
whole PUSH, a whole consumer operation with no PUSH inside it, or one micro-step of a consumer
operation, as the next trace line says. -/

namespace Sys2Proof.Machine

/-- The next trace line is taken. With no line left the consumer operation in progress goes on, and
an idle block stays as it is (log entry 7). -/
def step (s : State) : Host.Outcome State Fault Refusal :=
  match s.inputs with
  | [] => s.microStep
  | .rx b :: rest => exec (.push b) { s with inputs := rest }
  | .cmd op :: rest => exec (decodeCmd op) { s with inputs := rest }
  | .micro op :: rest => State.microLine { s with inputs := rest } op

/-- A table word's instruction placed so that the next step runs it; a word the decoder reads no
instruction from changes nothing (log entry 17). -/
def State.withFetchWord (s : State) (nbits w : Nat) : State :=
  match decodeTableWord nbits w with
  | some i => s.placeInstr i (BitVec.ofNat 8 w)
  | none => s

end Sys2Proof.Machine
end

