-- ==== Sys2Proof/Safety.lean ====
section
/-! DEFINITION. The terms claims are stated in: the invariant of the block, the trace lines the
spec's preconditions admit, runs over a list of lines, and the decoder and the queue as plain
functions on lists of bytes, written from 41_decoder.md R80 and 40_ring_buffer.md R73 without the
ring. -/

namespace Sys2Proof.Machine

/-! ## The invariant -/

/-- AVAILABLE and READ invoke the decoder only when no character is cached (R120, R121), so while one
of them runs the cache is empty. -/
def State.cacheFreeFor (s : State) : PopUser → Bool
  | .direct => true
  | .word .decode => true
  | .word .available => !s.cacheValid
  | .word .read => !s.cacheValid

/-- What the locals of the consumer operation in progress are bound to (R76): POP goes on only when a
byte is unread, and the byte it has read is the one in its slot; the `HEAD` that CLEAR has read lies
in the unread run or at `TAIL`; BEGIN.2 has set `HEAD` to 0, and the PUSHes after it (R158) have moved
it towards the old `TAIL`. -/
def State.ctlInv (s : State) : Bool :=
  match s.ctl with
  | .idle => true
  | .popHead u => s.cacheFreeFor u
  | .popSlot u => decide (s.head ≠ s.tail) && s.cacheFreeFor u
  | .popTail u b => decide (s.head ≠ s.tail) && b == s.peekByte && s.cacheFreeFor u
  | .clearHead _ => true
  | .clearTail _ h => decide (h < s.cfg.N) && decide ((h + s.cfg.N - s.tail) % s.cfg.N ≤ s.occupancy)
  | .beginCfg => true
  | .beginHead => true
  | .beginTail => decide (s.head < s.tail ∨ s.tail = 0)

/-- The invariant: a configuration R3 admits; both indices in `0 .. N-1` (R11, R12, R75); `BUF` in
canonical form and within its N slots (R45); a valid cached character is not 0 (R23); no character
0 is answered (R105); the locals as above. -/
def State.inv (s : State) : Bool :=
  s.cfg.wf && decide (s.head < s.cfg.N) && decide (s.tail < s.cfg.N) &&
  s.buf.wf && s.buf.below s.cfg.N &&
  (!s.cacheValid || s.cache != 0#8) && s.rsp != .char (.char 0#8) && s.ctlInv

/-! ## Admissible lines and runs -/

/-- The next trace line is one the spec gives a behaviour to: no reserved code (R64), and one consumer
operation at a time (R157). -/
def State.admits (s : State) : Bool :=
  match s.inputs with
  | [] => true
  | .rx _ :: _ => true
  | .cmd op :: _ => op != 7#3 && s.ctl == .idle
  | .micro op :: _ => op != 7#3 && (s.ctl == .idle || s.ctl.code == some op)

/-- The unread bytes that a later POP can still return: between BEGIN.2 and BEGIN.3 those in the slots
after 0, the value `TAIL` is about to take, and otherwise the unread run. -/
def State.visible (s : State) : List Byte :=
  if s.ctl = .beginTail then ({ s with tail := 0 } : State).unread else s.unread

/-- The run over a list of trace lines, from a state whose own lines are put aside. -/
def State.runLines (s : State) (lines : List Input) : Out :=
  Host.Core.run Sys2Proof.core lines.length { s with inputs := lines }

/-- The lines of a list of receive events. -/
def rxLines (bytes : List Byte) : List Input := bytes.map Input.rx

end Sys2Proof.Machine

namespace Sys2Proof.Spec

open Sys2Proof.Machine

/-! ## The decoder on a list of words (R80) -/

/-- One iteration of R80's loop on a word that POP has returned, line by line: the flags after it,
and the character returned, if the iteration returns one. -/
def word (cfg : Config) (f : Flags) (s : Byte) : Flags × Option Byte :=
  if s = 0xF0#8 then (⟨true, f.modifier, f.shiftLeft, f.shiftRight⟩, none)
  else if s = 0xE0#8 then (⟨f.brk, true, f.shiftLeft, f.shiftRight⟩, none)
  else if f.brk = true then
    (⟨false, false, if s = 0x12#8 then false else f.shiftLeft,
      if s = 0x59#8 then false else f.shiftRight⟩, none)
  else if s = 0x12#8 then
    (⟨f.brk, if cfg.shiftMakeClearsPrefix = true then false else f.modifier, true, f.shiftRight⟩, none)
  else if s = 0x59#8 then
    (⟨f.brk, if cfg.shiftMakeClearsPrefix = true then false else f.modifier, f.shiftLeft, true⟩, none)
  else
    let c : Byte :=
      if f.modifier = true then cfg.ext s
      else if f.shiftLeft = true ∨ f.shiftRight = true then
        (if s.toNat < 128 then cfg.tS[s.toNat]?.getD 0#8 else 0#8)
      else (if s.toNat < 128 then cfg.tU[s.toNat]?.getD 0#8 else 0#8)
    (⟨false, false, f.shiftLeft, f.shiftRight⟩, if c ≠ 0#8 then some c else none)

/-- R80's loop over the unread words, with no PUSH inside it: its result, the flags after it, and the
words left unread. -/
def decodeWords (cfg : Config) (f : Flags) : List Byte → CharResult × Flags × List Byte
  | [] => (.none, f, [])
  | w :: ws =>
    match word cfg f w with
    | (g, some c) => (.char c, g, ws)
    | (g, none) => decodeWords cfg g ws

/-- The state after an iteration that continues the loop. -/
def continued (s : State) (f : Flags) : State :=
  { s with flags := f, ctl := .popHead (.word s.ctl.decodeUser) }

/-- The state after an iteration that returns the character `c`: DECODE and READ answer it (R80,
R121), AVAILABLE keeps it and answers `true` (R120). -/
def returned (s : State) (f : Flags) (c : Byte) : State :=
  match s.ctl.decodeUser with
  | .decode => { s with flags := f, rsp := .char (.char c), ctl := .idle }
  | .read => { s with flags := f, rsp := .char (.char c), ctl := .idle }
  | .available =>
    { s with flags := f, cache := c, cacheValid := true, rsp := .bool true, ctl := .idle }

/-- The state after one iteration. -/
def afterWord (s : State) (r : Flags × Option Byte) : State :=
  match r.2 with
  | some c => returned s r.1 c
  | none => continued s r.1

/-- The state after a decoder invocation that left the words `rest` unread, before its answer. -/
def decoded (s : State) (f : Flags) (rest : List Byte) : State :=
  { s with
    tail := (s.tail + (s.unread.length - rest.length)) % s.cfg.N
    flags := f
    ctl := .idle }

/-! ## The ring buffer as a queue (R73, R74) -/

/-- The queue of unread bytes after one ring line, and the answer of a POP: PUSH appends while fewer
than `cap` bytes are queued and is dropped otherwise, POP takes the oldest. -/
def queueLine (cap : Nat) (q : List Byte) : Input → List Byte × List Response
  | .rx b => (if q.length < cap then q ++ [b] else q, [])
  | .cmd _ =>
    match q with
    | [] => ([], [.raw .empty])
    | b :: rest => (rest, [.raw (.byte b)])
  | .micro _ => (q, [])

/-- The queue and the answers over a list of ring lines. -/
def queueLines (cap : Nat) (q : List Byte) : List Input → List Byte × List Response
  | [] => (q, [])
  | l :: ls =>
    let r := queueLine cap q l
    let rest := queueLines cap r.1 ls
    (rest.1, r.2 ++ rest.2)

/-- The machine run line by line, the answer taken after every consumer line; none if a line is not
followed by a next state. -/
def answers (s : State) : List Input → Option (State × List Response)
  | [] => some (s, [])
  | l :: ls =>
    match step { s with inputs := [l] } with
    | .next t =>
      (answers t ls).map (fun r =>
        (r.1, (match l with | .cmd _ => [t.rsp] | .rx _ => [] | .micro _ => []) ++ r.2))
    | .fault _ => none
    | .refused _ => none

/-- A ring line: a PUSH or a whole POP. -/
def isRingLine : Input → Bool
  | .rx _ => true
  | .cmd op => op == 0#3
  | .micro _ => false

end Sys2Proof.Spec
end

