-- ==== Sys2Proof/Certificates/Slice0/Obligations.lean ====
section
/-! DEFINITION. The statements for the provers. -/

open Sys2Proof Sys2Proof.Machine

/-! ## Reset, configuration and the whole machine -/

/-- R150: cold reset leaves both indices 0, all four flags 0 and the cache empty. What `BUF` and
`CACHE` hold is left out: the spec leaves it unspecified. The values are the spec's own choices
(R150: "The values are the spec's choices where the source states none"). -/
def Obligations.ColdResetState : Prop :=
  State.reset.head = 0 ∧ State.reset.tail = 0 ∧
  State.reset.flags.brk = false ∧ State.reset.flags.modifier = false ∧
  State.reset.flags.shiftLeft = false ∧ State.reset.flags.shiftRight = false ∧
  State.reset.cacheValid = false ∧ State.reset.unread = []

/-- The invariant holds at cold reset. The default configuration is in it (log entry 2). -/
def Obligations.ResetMeetsTheInvariant : Prop :=
  State.reset.inv = true

/-- Every step from a state that meets the invariant, reachable or not, gives one that meets it. The
canonical form of the storage and the bounds on the locals are the model's own clauses (log entries
4 and 9). -/
def Obligations.StepKeepsTheInvariant : Prop :=
  ∀ s t : State, s.inv = true → step s = .next t → t.inv = true

/-- R3: no step changes a parameter; the defaults are those of R3's table, with the lookup tables
written out as R58 prints them and `EXT` as R56 and R57 do. Only `BAUD`, the code 0x75 and the
entries at 0x1C are the source's; `N` (92_eei_decisions.md D1), `W` (D2), the lookup tables (D10),
the codes of the extended keys (D11), the sentinels (D12), keypad-`/` and keypad-Enter (D33),
`FLUSH_CLEARS_CACHE` (D8) and `SHIFT_MAKE_CLEARS_PREFIX` (D15) are the spec's decisions, the tables
and the codes but 0x75 general knowledge among them (log entry 2, PRESUMED). `FRAMING` has no
default (D27, log entry 3) and none is stated; `NONE` is no parameter field (WidenedResults). -/
def Obligations.ConfigurationIsFixed : Prop :=
  (∀ s t : State, step s = .next t → t.cfg = s.cfg) ∧
  Config.default.N = 16 ∧ Config.default.indexWidth = 4 ∧ Config.default.baud = 19200 ∧
  Config.default.flushClearsCache = false ∧ Config.default.shiftMakeClearsPrefix = true ∧
  ExtKey.special.map Config.default.extOut.get =
    [0x80#8, 0x81#8, 0x82#8, 0x83#8, 0x84#8, 0x85#8, 0x86#8, 0x87#8, 0x88#8, 0x89#8] ∧
  Config.default.extOut.kpSlash = 0x2F#8 ∧ Config.default.extOut.kpEnter = 0x0D#8 ∧
  ExtKey.all.map Config.default.extCode.get =
    [0x70#8, 0x6C#8, 0x7D#8, 0x71#8, 0x69#8, 0x7A#8, 0x75#8, 0x6B#8, 0x72#8, 0x74#8, 0x4A#8, 0x5A#8] ∧
  (∀ w : Byte, w ∉ ExtKey.all.map Config.default.extCode.get → Config.default.ext w = 0#8) ∧
  (∀ k : ExtKey, Config.default.ext (Config.default.extCode.get k) = Config.default.extOut.get k) ∧
  Config.default.tU.map BitVec.toNat =
    [0x00, 0x00, 0x00, 0x00, 0x00, 0x00, 0x00, 0x00, 0x00, 0x00, 0x00, 0x00, 0x00, 0x09, 0x60, 0x00] ++
    [0x00, 0x00, 0x00, 0x00, 0x00, 0x71, 0x31, 0x00, 0x00, 0x00, 0x7A, 0x73, 0x61, 0x77, 0x32, 0x00] ++
    [0x00, 0x63, 0x78, 0x64, 0x65, 0x34, 0x33, 0x00, 0x00, 0x20, 0x76, 0x66, 0x74, 0x72, 0x35, 0x00] ++
    [0x00, 0x6E, 0x62, 0x68, 0x67, 0x79, 0x36, 0x00, 0x00, 0x00, 0x6D, 0x6A, 0x75, 0x37, 0x38, 0x00] ++
    [0x00, 0x2C, 0x6B, 0x69, 0x6F, 0x30, 0x39, 0x00, 0x00, 0x2E, 0x2F, 0x6C, 0x3B, 0x70, 0x2D, 0x00] ++
    [0x00, 0x00, 0x27, 0x00, 0x5B, 0x3D, 0x00, 0x00, 0x00, 0x00, 0x0D, 0x5D, 0x00, 0x5C, 0x00, 0x00] ++
    [0x00, 0x00, 0x00, 0x00, 0x00, 0x00, 0x08, 0x00, 0x00, 0x31, 0x00, 0x34, 0x37, 0x00, 0x00, 0x00] ++
    [0x30, 0x2E, 0x32, 0x35, 0x36, 0x38, 0x1B, 0x00, 0x00, 0x2B, 0x33, 0x2D, 0x2A, 0x39, 0x00, 0x00] ∧
  Config.default.tS.map BitVec.toNat =
    [0x00, 0x00, 0x00, 0x00, 0x00, 0x00, 0x00, 0x00, 0x00, 0x00, 0x00, 0x00, 0x00, 0x09, 0x7E, 0x00] ++
    [0x00, 0x00, 0x00, 0x00, 0x00, 0x51, 0x21, 0x00, 0x00, 0x00, 0x5A, 0x53, 0x41, 0x57, 0x40, 0x00] ++
    [0x00, 0x43, 0x58, 0x44, 0x45, 0x24, 0x23, 0x00, 0x00, 0x20, 0x56, 0x46, 0x54, 0x52, 0x25, 0x00] ++
    [0x00, 0x4E, 0x42, 0x48, 0x47, 0x59, 0x5E, 0x00, 0x00, 0x00, 0x4D, 0x4A, 0x55, 0x26, 0x2A, 0x00] ++
    [0x00, 0x3C, 0x4B, 0x49, 0x4F, 0x29, 0x28, 0x00, 0x00, 0x3E, 0x3F, 0x4C, 0x3A, 0x50, 0x5F, 0x00] ++
    [0x00, 0x00, 0x22, 0x00, 0x7B, 0x2B, 0x00, 0x00, 0x00, 0x00, 0x0D, 0x7D, 0x00, 0x7C, 0x00, 0x00] ++
    [0x00, 0x00, 0x00, 0x00, 0x00, 0x00, 0x08, 0x00, 0x00, 0x31, 0x00, 0x34, 0x37, 0x00, 0x00, 0x00] ++
    [0x30, 0x2E, 0x32, 0x35, 0x36, 0x38, 0x1B, 0x00, 0x00, 0x2B, 0x33, 0x2D, 0x2A, 0x39, 0x00, 0x00]

/-- R130: a step from any state is a next state when its trace line is within the preconditions, and
otherwise one of the two refusals of R64 and R157. Where that line runs is the model's: overlapping
consumer operations, which R157 leaves undefined, are refused (log entry 10), and a PUSH inside a
BEGIN, which R158 says a model should refuse or may admit, is admitted (log entry 11). Overlapping
PUSHes (R156) cannot be written as a trace. -/
def Obligations.NoStepFaults : Prop :=
  ∀ s : State,
    (s.admits = true → ∃ t, step s = .next t) ∧
    (s.admits = false →
      step s = .refused .reservedCommand ∨ step s = .refused .overlappingConsumer)

/-- A step runs the instruction the decoder reads: from the producer line, from a whole consumer
line, and from the word POP.3 hands to the decoder, `TAIL` having been written. That POP.3 also runs
with no trace line left, the last clause, is the model's choice (log entry 7). -/
def Obligations.StepRunsTheDecodedInstruction : Prop :=
  (∀ (s : State) (b : Byte) (rest : List Input) (i : Instr),
    s.inputs = .rx b :: rest → decode s.cfg .producer b = .ok i →
    step s = exec i { s with inputs := rest }) ∧
  (∀ (s : State) (op : Cmd) (rest : List Input) (i : Instr),
    s.inputs = .cmd op :: rest → decode s.cfg .consumer (op.setWidth 8) = .ok i →
    step s = exec i { s with inputs := rest }) ∧
  (∀ (s : State) (u : DecodeUser) (w : Byte) (rest : List Input) (i : Instr),
    s.inputs = .micro u.code :: rest → s.ctl = .popTail (.word u) w →
    decode s.cfg (.scan s.context) w = .ok i →
    step s = exec i { s with inputs := rest, tail := (s.tail + 1) % s.cfg.N }) ∧
  (∀ (s : State) (u : DecodeUser) (w : Byte) (i : Instr),
    s.inputs = [] → s.ctl = .popTail (.word u) w →
    decode s.cfg (.scan s.context) w = .ok i →
    step s = exec i { s with tail := (s.tail + 1) % s.cfg.N })

/-! ## Encodings -/

/-- A few words written out from the spec's encodings decode to the instructions they stand for. The
codes of the extended keys and the select codes are the spec's own (log entry 2; R63:
92_eei_decisions.md D17). -/
def Obligations.WordsDecodeAsPrinted : Prop :=
  decode Config.default .producer 0x1C#8 = .ok (.push 0x1C#8) ∧
  decode Config.default .consumer 0b00000011#8 = .ok .available ∧
  decode Config.default .consumer 0b00000110#8 = .ok .beginOp ∧
  decode Config.default (.scan ⟨true, true, true⟩) 0b11110000#8 = .ok .scBrk ∧
  decode Config.default (.scan ⟨true, false, false⟩) 0b11100000#8 = .ok .scExt ∧
  decode Config.default (.scan ⟨true, true, false⟩) 0b00010010#8 = .ok (.scRel 0x12#8) ∧
  decode Config.default (.scan ⟨false, true, false⟩) 0b00010010#8 = .ok .scLsh ∧
  decode Config.default (.scan ⟨false, true, true⟩) 0b01110101#8 = .ok .scXUp ∧
  decode Config.default (.scan ⟨false, true, true⟩) 0b10000011#8 = .ok (.scXnone 0x83#8) ∧
  decode Config.default (.scan ⟨false, false, true⟩) 0b10000011#8 = .ok (.scHigh 0x83#8) ∧
  decode Config.default (.scan ⟨false, false, true⟩) 0b01110101#8 = .ok (.scKeys 0x75#8) ∧
  decode Config.default (.scan ⟨false, false, false⟩) 0b01110101#8 = .ok (.scKeyu 0x75#8)

/-- Every well-formed instruction, on every port (and under every context) its row applies on, is
what the decoder reads from its byte, under every configuration. -/
def Obligations.DecodeOfEncode : Prop :=
  ∀ (cfg : Config) (i : Instr) (p : Port),
    i.wf cfg = true → i.onPort p = true → decode cfg p (encode cfg i) = .ok i

/-- What the decoder reads is well formed, its row applies on that port, and the byte is its
encoding: no byte is read as a neighbour's. -/
def Obligations.EncodeOfDecode : Prop :=
  ∀ (cfg : Config) (p : Port) (b : Byte) (i : Instr),
    decode cfg p b = .ok i → i.wf cfg = true ∧ i.onPort p = true ∧ encode cfg i = b

/-- R67: under the default `EXT`, every word and context selects exactly one format-S row of the
opcode table, the one R51's tests give. The codes of the extended keys are general knowledge (log
entry 2). -/
def Obligations.OneTableRowPerWord : Prop :=
  ∀ (c : Context) (s : Byte),
    (selectedRows c s).map (fun r => r.instr s) = [decodeWord Config.default c s]

/-! ## The ring buffer -/

/-- R70: PUSH stores at `(HEAD + 1) mod N` and moves `HEAD` there, unless that slot is `TAIL`. -/
def Obligations.PushStoresOrDrops : Prop :=
  (∀ (cfg : Config) (b : Byte), decode cfg .producer b = .ok (.push b)) ∧
  (∀ (s : State) (b : Byte),
      exec (.push b) s = .next (
        if (s.head + 1) % s.cfg.N = s.tail then s
        else { s with
          buf := s.buf.write ((s.head + 1) % s.cfg.N) b
          head := (s.head + 1) % s.cfg.N }))

/-- R74: a PUSH into a full buffer changes nothing, so it is as if it had not happened. -/
def Obligations.FullBufferDropsTheIncomingByte : Prop :=
  ∀ (s : State) (b : Byte), (s.head + 1) % s.cfg.N = s.tail →
    exec (.push b) s = .next s

/-- R71: POP returns `Empty` and writes nothing when `HEAD == TAIL`, else the byte at
`(TAIL + 1) mod N`, and moves `TAIL` there. -/
def Obligations.PopReturnsTheOldest : Prop :=
  (∀ cfg : Config, decode cfg .consumer 0#8 = .ok .pop) ∧
  (∀ s : State, s.ctl = .idle →
      exec .pop s = .next (
        if s.head = s.tail then { s with rsp := .raw .empty }
        else { s with
          tail := (s.tail + 1) % s.cfg.N
          rsp := .raw (.byte (s.buf.read ((s.tail + 1) % s.cfg.N))) }))

/-- R72: CLEAR writes `HEAD` to `TAIL` and nothing else, and no byte is unread after it. -/
def Obligations.ClearDiscardsUnread : Prop :=
  (∀ cfg : Config, decode cfg .consumer 1#8 = .ok .clear) ∧
  (∀ s : State, s.ctl = .idle →
      exec .clear s = .next { s with tail := s.head, rsp := .done } ∧
      ({ s with tail := s.head, rsp := .done } : State).unread = [])

/-- The ring buffer is a bounded queue of capacity `N - 1`: over every list of PUSHes and POPs, the
unread bytes and the answers are those of the queue (first in, first out; a PUSH into the full queue
is dropped; a POP of the empty queue is `Empty`). -/
def Obligations.RingIsABoundedQueue : Prop :=
  ∀ (s : State) (lines : List Input), s.inv = true → s.ctl = .idle → lines.all Spec.isRingLine = true →
    ∃ t, Spec.answers s lines = some (t, (Spec.queueLines (s.cfg.N - 1) s.unread lines).2) ∧
      t.unread = (Spec.queueLines (s.cfg.N - 1) s.unread lines).1

/-- Bytes are neither reordered nor repeated: whatever step runs (a whole operation, a micro-step, a
PUSH), the unread bytes after it are what is left of the ones before it, the oldest gone, with the
pushed byte behind them when there was room. Left out is BEGIN.2, which writes `HEAD` before
`TAIL`. -/
def Obligations.UnreadBytesOnlyLeaveInOrder : Prop :=
  ∀ s t : State, s.inv = true → s.ctl ≠ .beginHead → step s = .next t →
    ∃ k, t.unread = s.unread.drop k ++
      (match s.inputs with
       | .rx b :: _ => if s.unread.length < s.cfg.N - 1 then [b] else []
       | .cmd _ :: _ => []
       | .micro _ :: _ => []
       | [] => [])

/-- R14: the occupancy is at most `N - 1`, it is `N - 1` exactly when PUSH would collide with
`TAIL`, and 0 exactly when `HEAD == TAIL`. The rule is the spec's inference from R13 and R70 (R14:
"[derived: from rule R13 and 40_ring_buffer.md rule R70]"). -/
def Obligations.UsableCapacityIsNMinusOne : Prop :=
  ∀ s : State, s.inv = true →
    s.occupancy ≤ s.cfg.N - 1 ∧
    (s.occupancy = s.cfg.N - 1 ↔ (s.head + 1) % s.cfg.N = s.tail) ∧
    (s.occupancy = 0 ↔ s.head = s.tail) ∧
    (s.unread.length = s.occupancy)

/-- The index registers fit in `W = ceil(log2 N)` bits. -/
def Obligations.IndicesFitTheirWidth : Prop :=
  ∀ s : State, s.inv = true → s.head < 2 ^ s.cfg.indexWidth ∧ s.tail < 2 ^ s.cfg.indexWidth

/-- A FLUSH or CLEAR followed at once by a POP answers `Empty`, whatever the buffer held. -/
def Obligations.PopAfterFlushIsEmpty : Prop :=
  ∀ s : State, s.ctl = .idle →
    (∃ t u, exec .flush s = .next t ∧ exec .pop t = .next u ∧ u.rsp = .raw .empty ∧
      u.head = s.head ∧ u.tail = s.head) ∧
    (∃ t u, exec .clear s = .next t ∧ exec .pop t = .next u ∧ u.rsp = .raw .empty ∧
      u.head = s.head ∧ u.tail = s.head)

/-- What PUSH, POP and CLEAR leave unchanged. -/
def Obligations.RingOperationsFrame : Prop :=
  (∀ (s t : State) (b : Byte), exec (.push b) s = .next t →
    t.cfg = s.cfg ∧ t.tail = s.tail ∧ t.flags = s.flags ∧ t.cache = s.cache ∧
    t.cacheValid = s.cacheValid ∧ t.ctl = s.ctl ∧ t.rsp = s.rsp ∧ t.cfgOut = s.cfgOut ∧
    t.inputs = s.inputs ∧
    (s.buf.wf = true → ∀ a, a ≠ (s.head + 1) % s.cfg.N ∨ (s.head + 1) % s.cfg.N = s.tail →
      t.buf.read a = s.buf.read a)) ∧
  (∀ (i : Instr) (s t : State), i = .pop ∨ i = .clear → exec i s = .next t →
    t.cfg = s.cfg ∧ t.head = s.head ∧ t.flags = s.flags ∧ t.cache = s.cache ∧
    t.cacheValid = s.cacheValid ∧ t.cfgOut = s.cfgOut ∧ t.inputs = s.inputs ∧
    ∀ a, t.buf.read a = s.buf.read a)

/-! ## The scan-code words -/

/-- R81: 0xF0 is the break prefix under every context; it sets BREAK, leaves the other three flags
and everything else, produces nothing, and the loop goes on. -/
def Obligations.BreakPrefixSetsBreak : Prop :=
  (∀ (cfg : Config) (c : Context), decodeWord cfg c 0xF0#8 = .scBrk) ∧
  (∀ s : State, exec .scBrk s =
    .next { s with
      flags := ⟨true, s.flags.modifier, s.flags.shiftLeft, s.flags.shiftRight⟩
      ctl := .popHead (.word s.ctl.decodeUser) })

/-- R82: 0xE0 is the extended prefix under every context; it sets MODIFIER, leaves the other three
flags and everything else, produces nothing, and the loop goes on. -/
def Obligations.ExtendedPrefixSetsModifier : Prop :=
  (∀ (cfg : Config) (c : Context), decodeWord cfg c 0xE0#8 = .scExt) ∧
  (∀ s : State, exec .scExt s =
    .next { s with
      flags := ⟨s.flags.brk, true, s.flags.shiftLeft, s.flags.shiftRight⟩
      ctl := .popHead (.word s.ctl.decodeUser) })

/-- R83: with BREAK pending every key-identifying code is a release; it clears BREAK and MODIFIER,
and the shift latch of its own key, and produces nothing. -/
def Obligations.ReleaseEmitsNothing : Prop :=
  (∀ (cfg : Config) (c : Context) (w : Byte), w ≠ 0xF0#8 → w ≠ 0xE0#8 → c.brk = true →
    decodeWord cfg c w = .scRel w) ∧
  (∀ (s : State) (w : Byte), exec (.scRel w) s =
    .next { s with
      flags := ⟨false, false, if w = 0x12#8 then false else s.flags.shiftLeft,
        if w = 0x59#8 then false else s.flags.shiftRight⟩
      ctl := .popHead (.word s.ctl.decodeUser) })

/-- R84 and R85: without BREAK, 0x12 and 0x59 set their own latch, clear MODIFIER when
`SHIFT_MAKE_CLEARS_PREFIX` is true, and produce nothing. The clearing of MODIFIER is the spec's own
choice (R84, R85: 92_eei_decisions.md D15). -/
def Obligations.ShiftPressLatches : Prop :=
  (∀ (cfg : Config) (c : Context), c.brk = false →
    decodeWord cfg c 0x12#8 = .scLsh ∧ decodeWord cfg c 0x59#8 = .scRsh) ∧
  (∀ s : State, exec .scLsh s =
    .next { s with
      flags := ⟨s.flags.brk,
        if s.cfg.shiftMakeClearsPrefix = true then false else s.flags.modifier,
        true, s.flags.shiftRight⟩
      ctl := .popHead (.word s.ctl.decodeUser) }) ∧
  (∀ s : State, exec .scRsh s =
    .next { s with
      flags := ⟨s.flags.brk,
        if s.cfg.shiftMakeClearsPrefix = true then false else s.flags.modifier,
        s.flags.shiftLeft, true⟩
      ctl := .popHead (.word s.ctl.decodeUser) })

/-- R88 to R99, with any admitted configuration: under MODIFIER without BREAK the scan code of a
reachable key is its class, whatever shift is held, and the class returns the key's output byte and
clears both prefix flags. The keys' codes and bytes in the default instance, and the bytes of the
same codes without the prefix, are those the rules print. The scan codes, but for 0x75, are marked
in those rules as general knowledge, and the bytes are the spec's choices (log entry 2). -/
def Obligations.ExtendedKeysReturnTheirBytes : Prop :=
  (∀ (cfg : Config) (c : Context) (k : ExtKey), cfg.keyReachable k = true → c.brk = false →
    c.modifier = true → decodeWord cfg c (cfg.extCode.get k) = Instr.ofKey k) ∧
  (∀ (s : State) (k : ExtKey), s.cfg.wf = true →
    exec (Instr.ofKey k) s = .next (Spec.returned s
      ⟨false, false, s.flags.shiftLeft, s.flags.shiftRight⟩ (s.cfg.extOut.get k))) ∧
  ExtKey.all.map Instr.ofKey =
    [.scXInsert, .scXHome, .scXPageup, .scXDelete, .scXEnd, .scXPagedown,
     .scXUp, .scXLeft, .scXDown, .scXRight, .scXKpslash, .scXKpenter] ∧
  ExtKey.all.map Config.default.extCode.get =
    [0x70#8, 0x6C#8, 0x7D#8, 0x71#8, 0x69#8, 0x7A#8, 0x75#8, 0x6B#8, 0x72#8, 0x74#8, 0x4A#8, 0x5A#8] ∧
  ExtKey.all.map Config.default.extOut.get =
    [0x80#8, 0x81#8, 0x82#8, 0x83#8, 0x84#8, 0x85#8, 0x86#8, 0x87#8, 0x88#8, 0x89#8, 0x2F#8, 0x0D#8] ∧
  ExtKey.all.map (fun k => Config.default.tU[(Config.default.extCode.get k).toNat]?.getD 0#8) =
    [0x30#8, 0x37#8, 0x39#8, 0x2E#8, 0x31#8, 0x33#8, 0x38#8, 0x34#8, 0x32#8, 0x36#8, 0x2F#8, 0x0D#8] ∧
  ExtKey.all.all Config.default.keyReachable = true

/-- R100: under MODIFIER without BREAK a code with no entry in `EXT` is SC.XNONE, also at or above
0x80; it produces nothing and uses the prefix up, with no fall-back to the lookup tables. -/
def Obligations.UnlistedExtendedCodeEmitsNothing : Prop :=
  (∀ (cfg : Config) (c : Context) (w : Byte), w ≠ 0xF0#8 → w ≠ 0xE0#8 → w ≠ 0x12#8 → w ≠ 0x59#8 →
    c.brk = false → c.modifier = true → cfg.ext w = 0#8 → decodeWord cfg c w = .scXnone w) ∧
  (∀ (s : State) (w : Byte), exec (.scXnone w) s =
    .next { s with
      flags := ⟨false, false, s.flags.shiftLeft, s.flags.shiftRight⟩
      ctl := .popHead (.word s.ctl.decodeUser) })

/-- R101: with a shift held and no prefix pending, a code below 128 other than the two shift keys is
looked up in `T_S`; a non-zero entry is returned, a zero entry continues, the latches stay. -/
def Obligations.ShiftedLookup : Prop :=
  (∀ (cfg : Config) (c : Context) (w : Byte), w.toNat < 128 → w ≠ 0x12#8 → w ≠ 0x59#8 →
    c.brk = false → c.modifier = false → c.shift = true → decodeWord cfg c w = .scKeys w) ∧
  (∀ (s : State) (w : Byte), w.toNat < 128 → exec (.scKeys w) s =
    .next (
      if s.cfg.tS[w.toNat]?.getD 0#8 = 0#8 then
        Spec.continued s ⟨false, false, s.flags.shiftLeft, s.flags.shiftRight⟩
      else
        Spec.returned s ⟨false, false, s.flags.shiftLeft, s.flags.shiftRight⟩
          (s.cfg.tS[w.toNat]?.getD 0#8)))

/-- R102: with no flag set, a code below 128 other than the two shift keys is looked up in `T_U`; a
non-zero entry is returned, a zero entry continues. -/
def Obligations.UnshiftedLookup : Prop :=
  (∀ (cfg : Config) (c : Context) (w : Byte), w.toNat < 128 → w ≠ 0x12#8 → w ≠ 0x59#8 →
    c.brk = false → c.modifier = false → c.shift = false → decodeWord cfg c w = .scKeyu w) ∧
  (∀ (s : State) (w : Byte), w.toNat < 128 → exec (.scKeyu w) s =
    .next (
      if s.cfg.tU[w.toNat]?.getD 0#8 = 0#8 then
        Spec.continued s ⟨false, false, s.flags.shiftLeft, s.flags.shiftRight⟩
      else
        Spec.returned s ⟨false, false, s.flags.shiftLeft, s.flags.shiftRight⟩
          (s.cfg.tU[w.toNat]?.getD 0#8)))

/-- R103: with no prefix pending, a key-identifying code at or above 128 produces nothing, whatever
the tables hold and the shift latches are. -/
def Obligations.CodeOutsideTheTablesEmitsNothing : Prop :=
  (∀ (cfg : Config) (c : Context) (w : Byte), 128 ≤ w.toNat → w ≠ 0xF0#8 → w ≠ 0xE0#8 →
    c.brk = false → c.modifier = false → decodeWord cfg c w = .scHigh w) ∧
  (∀ (s : State) (w : Byte), exec (.scHigh w) s =
    .next { s with
      flags := ⟨false, false, s.flags.shiftLeft, s.flags.shiftRight⟩
      ctl := .popHead (.word s.ctl.decodeUser) })

/-- The classification of R51 and the twenty-one class meanings, put together, are one iteration of
R80's loop: for every word and every state, the class's meaning gives the state R80 gives. -/
def Obligations.WordClassesFollowTheDecodeLoop : Prop :=
  ∀ (s : State) (w : Byte),
    exec (decodeWord s.cfg s.context w) s = .next (Spec.afterWord s (Spec.word s.cfg s.flags w))

/-- R16: once a key-identifying code has been processed both prefix flags are 0; with
`SHIFT_MAKE_CLEARS_PREFIX` false MODIFIER may survive a shift press, and nothing else. -/
def Obligations.PrefixFlagsLastOneCode : Prop :=
  ∀ (s : State) (w : Byte), w ≠ 0xF0#8 → w ≠ 0xE0#8 →
    ∃ t, exec (decodeWord s.cfg s.context w) s = .next t ∧ t.flags.brk = false ∧
      (s.cfg.shiftMakeClearsPrefix = true ∨ s.flags.brk = true ∨ (w ≠ 0x12#8 ∧ w ≠ 0x59#8) →
        t.flags.modifier = false) ∧
      (s.cfg.shiftMakeClearsPrefix = false → s.flags.brk = false → w = 0x12#8 ∨ w = 0x59#8 →
        t.flags.modifier = s.flags.modifier)

/-- SHIFT_LEFT changes only on the word 0x12 and SHIFT_RIGHT only on the word 0x59: set without
BREAK, cleared with it, whatever MODIFIER is. -/
def Obligations.ShiftLatchesFollowTheirCodes : Prop :=
  ∀ (s : State) (w : Byte),
    ∃ t, exec (decodeWord s.cfg s.context w) s = .next t ∧
      t.flags.shiftLeft = (if w = 0x12#8 then !s.flags.brk else s.flags.shiftLeft) ∧
      t.flags.shiftRight = (if w = 0x59#8 then !s.flags.brk else s.flags.shiftRight)

/-- From every value of the flags the four words F0 12 F0 59 lead back to all flags clear, producing
nothing. -/
def Obligations.FourWordsClearEveryFlag : Prop :=
  ∀ (cfg : Config) (f : Flags),
    Spec.decodeWords cfg f [0xF0#8, 0x12#8, 0xF0#8, 0x59#8] = (.none, ⟨false, false, false, false⟩, []) ∧
    (∀ s : State, s.cfg = cfg → s.flags = f → s.inv = true → s.ctl = .idle →
      s.unread = [0xF0#8, 0x12#8, 0xF0#8, 0x59#8] →
      ∃ t, exec .decode s = .next t ∧ t.flags = ⟨false, false, false, false⟩ ∧
        t.rsp = .char .none ∧ t.unread = [])

/-- What every scan-code word leaves unchanged: the indices, every slot, the parameters, the ports
of the other side; the cache too unless the decoder runs for AVAILABLE. -/
def Obligations.ScanWordsFrame : Prop :=
  ∀ (i : Instr) (c : Context) (s : State), i.onPort (.scan c) = true →
    ∃ t, exec i s = .next t ∧
      t.cfg = s.cfg ∧ t.head = s.head ∧ t.tail = s.tail ∧ t.cfgOut = s.cfgOut ∧ t.inputs = s.inputs ∧
      (∀ a, t.buf.read a = s.buf.read a) ∧
      (s.ctl.decodeUser ≠ .available → t.cache = s.cache ∧ t.cacheValid = s.cacheValid) ∧
      (t.ctl ≠ .idle → t.cache = s.cache ∧ t.cacheValid = s.cacheValid ∧ t.rsp = s.rsp)

/-! ## DECODE and the facade -/

/-- R80: DECODE pops the unread words one by one until one resolves to a non-zero byte, which it
returns, or none is left, when it returns `None`; the words behind the character stay unread, and
nothing but `TAIL`, the flags and the response is written. -/
def Obligations.DecodeRunsTheLoop : Prop :=
  (∀ cfg : Config, decode cfg .consumer 2#8 = .ok .decode) ∧
  (∀ s : State, s.inv = true → s.ctl = .idle →
      let r := Spec.decodeWords s.cfg s.flags s.unread
      exec .decode s = .next { Spec.decoded s r.2.1 r.2.2 with rsp := .char r.1 } ∧
      (Spec.decoded s r.2.1 r.2.2).unread = r.2.2)

/-- R120: AVAILABLE answers `true` at once with a valid cache, and changes nothing; otherwise it runs
the decoder once, keeps a character it yields, and answers whether there was one. -/
def Obligations.AvailablePeeks : Prop :=
  (∀ cfg : Config, decode cfg .consumer 3#8 = .ok .available) ∧
  (∀ s : State, s.inv = true → s.ctl = .idle →
      (s.cacheValid = true → exec .available s = .next { s with rsp := .bool true }) ∧
      (s.cacheValid = false →
        let r := Spec.decodeWords s.cfg s.flags s.unread
        exec .available s = .next (
          match r.1 with
          | .char c =>
            { Spec.decoded s r.2.1 r.2.2 with cache := c, cacheValid := true, rsp := .bool true }
          | .none => { Spec.decoded s r.2.1 r.2.2 with rsp := .bool false })))

/-- R121: READ returns a cached character and empties the cache, touching nothing else; otherwise it
returns what the decoder yields, and the cache is not used. -/
def Obligations.ReadReturnsTheNextCharacter : Prop :=
  (∀ cfg : Config, decode cfg .consumer 4#8 = .ok .read) ∧
  (∀ s : State, s.inv = true → s.ctl = .idle →
      (s.cacheValid = true →
        exec .read s = .next { s with cacheValid := false, rsp := .char (.char s.cache) }) ∧
      (s.cacheValid = false →
        let r := Spec.decodeWords s.cfg s.flags s.unread
        exec .read s = .next { Spec.decoded s r.2.1 r.2.2 with rsp := .char r.1 }))

/-- R122: FLUSH drops the unread bytes, empties the cache only when `FLUSH_CLEARS_CACHE` is true,
and leaves the flags. The parameter is the spec's own choice (R122: 92_eei_decisions.md D8). -/
def Obligations.FlushDropsRawBytes : Prop :=
  (∀ cfg : Config, decode cfg .consumer 5#8 = .ok .flush) ∧
  (∀ s : State, s.ctl = .idle →
      exec .flush s = .next { s with
        tail := s.head
        cacheValid := if s.cfg.flushClearsCache = true then false else s.cacheValid
        rsp := .done })

/-- R123: BEGIN issues one request with `BAUD` and `FRAMING` and sets both indices to 0; the
storage, the flags and the cache stay. That both indices become 0 is the spec's own choice (R123:
"that both become 0 is the spec's choice"). -/
def Obligations.BeginConfiguresAndEmpties : Prop :=
  (∀ cfg : Config, decode cfg .consumer 6#8 = .ok .beginOp) ∧
  (∀ s : State, s.ctl = .idle →
      exec .beginOp s = .next { s with
        cfgOut := s.cfgOut ++ [⟨s.cfg.baud, s.cfg.framing⟩]
        head := 0
        tail := 0
        rsp := .done })

/-- R64: the reserved select code is refused in every state, as an instruction, as a whole line and
as a micro-step line, and it is the only select code refused so. The refusal is the spec's own
choice (R64: 92_eei_decisions.md D18). -/
def Obligations.ReservedCodeIsRefused : Prop :=
  (∀ cfg : Config, decode cfg .consumer 7#8 = .ok .rsvd7) ∧
  (∀ s : State, exec .rsvd7 s = .refused .reservedCommand) ∧
  (∀ (s : State) (op : Cmd), op ≠ 7#3 → exec (decodeCmd op) s ≠ .refused .reservedCommand) ∧
  (∀ (s : State) (rest : List Input), s.inputs = .cmd 7#3 :: rest ∨ s.inputs = .micro 7#3 :: rest →
    step s = .refused .reservedCommand)

/-- R125: an AVAILABLE that answers `true` leaves a character cached; from then on every step keeps
that character cached until a READ, or a FLUSH with `FLUSH_CLEARS_CACHE` true, and as long as it is
cached an AVAILABLE answers `true` and changes nothing but the answer. One that answers `false`
leaves nothing cached, so the next decodes again. The rule is the spec's inference from R120 (R125:
"[derived: from rule R120]"). -/
def Obligations.AvailableIsIdempotent : Prop :=
  (∀ s : State, s.inv = true → s.ctl = .idle →
    ∃ t, exec .available s = .next t ∧
      (t.rsp = .bool true → t.cacheValid = true ∧ exec .available t = .next t) ∧
      (t.rsp = .bool false → t.unread = [] ∧ t.cacheValid = false)) ∧
  (∀ s : State, s.ctl = .idle → s.cacheValid = true →
    exec .available s = .next { s with rsp := .bool true }) ∧
  (∀ s t : State, s.inv = true → s.cacheValid = true → step s = .next t →
    (∀ rest, s.inputs ≠ .cmd 4#3 :: rest ∧ s.inputs ≠ .micro 4#3 :: rest) →
    (s.cfg.flushClearsCache = true → ∀ rest, s.inputs ≠ .cmd 5#3 :: rest ∧ s.inputs ≠ .micro 5#3 :: rest) →
    (s.cfg.flushClearsCache = true → ∀ h, s.ctl ≠ .clearTail .flush h) →
    t.cacheValid = true ∧ t.cache = s.cache)

/-- R151: cold reset followed by BEGIN is the cold-reset state, but for the request and the answer
on the ports; a later BEGIN keeps a pending prefix, a latch and a cached character. That BEGIN
leaves the cache is the spec's own choice (R151: 92_eei_decisions.md D9). -/
def Obligations.BeginIsAPartialReset : Prop :=
  (∃ t, exec .beginOp State.reset = .next t ∧
    t = { State.reset with rsp := t.rsp, cfgOut := t.cfgOut }) ∧
  (∀ s : State, s.ctl = .idle → ∃ t, exec .beginOp s = .next t ∧ t.head = 0 ∧ t.tail = 0 ∧
    t.cfgOut = s.cfgOut ++ [⟨s.cfg.baud, s.cfg.framing⟩] ∧ t.flags = s.flags ∧ t.cache = s.cache ∧ t.cacheValid = s.cacheValid)

/-- What the operations of the facade leave unchanged. -/
def Obligations.FacadeOperationsFrame : Prop :=
  (∀ (i : Instr) (s t : State), i = .decode ∨ i = .available ∨ i = .read → exec i s = .next t →
    t.cfg = s.cfg ∧ t.head = s.head ∧ t.cfgOut = s.cfgOut ∧ t.inputs = s.inputs ∧
    (∀ a, t.buf.read a = s.buf.read a) ∧
    (i = .decode → t.cache = s.cache ∧ t.cacheValid = s.cacheValid) ∧
    (i = .read → t.cache = s.cache) ∧
    (s.cacheValid = true → i ≠ .decode → t.tail = s.tail ∧ t.flags = s.flags ∧ t.cache = s.cache)) ∧
  (∀ s t : State, exec .flush s = .next t →
    t.cfg = s.cfg ∧ t.head = s.head ∧ t.flags = s.flags ∧ t.cache = s.cache ∧ t.cfgOut = s.cfgOut ∧
    t.inputs = s.inputs ∧ (s.cfg.flushClearsCache = false → t.cacheValid = s.cacheValid) ∧
    ∀ a, t.buf.read a = s.buf.read a) ∧
  (∀ s t : State, exec .beginOp s = .next t →
    t.cfg = s.cfg ∧ t.flags = s.flags ∧ t.cache = s.cache ∧ t.cacheValid = s.cacheValid ∧
    t.inputs = s.inputs ∧ ∀ a, t.buf.read a = s.buf.read a)

/-! ## Roles -/

/-- Who writes what, over every step: only a PUSH writes a slot; only a PUSH or a BEGIN writes
`HEAD`; a PUSH writes no `TAIL`, flag, cache, response or request. -/
def Obligations.EachFieldHasOneWriter : Prop :=
  ∀ s t : State, step s = .next t →
    ((∀ b rest, s.inputs ≠ .rx b :: rest) → t.buf = s.buf) ∧
    ((∀ b rest, s.inputs ≠ .rx b :: rest) → s.ctl ≠ .beginHead →
      (∀ rest, s.inputs ≠ .cmd 6#3 :: rest) → t.head = s.head) ∧
    (∀ b rest, s.inputs = .rx b :: rest →
      t.tail = s.tail ∧ t.flags = s.flags ∧ t.cache = s.cache ∧ t.cacheValid = s.cacheValid ∧
      t.ctl = s.ctl ∧ t.rsp = s.rsp ∧ t.cfgOut = s.cfgOut ∧ t.inputs = rest)

/-- The flags are written by the decoder alone: by DECODE, AVAILABLE or READ as a whole, or by the
POP.3 of one of them. -/
def Obligations.OnlyTheDecoderWritesTheFlags : Prop :=
  ∀ s t : State, step s = .next t → t.flags ≠ s.flags →
    (∃ op rest, s.inputs = .cmd op :: rest ∧ (op = 2#3 ∨ op = 3#3 ∨ op = 4#3)) ∨
    (∃ u w, s.ctl = .popTail (.word u) w)

/-- A PUSH does not see the consumer's private state: the flags, the cache, the answer and the
requests change neither what it stores nor whether it does. -/
def Obligations.PushIsBlindToConsumerState : Prop :=
  ∀ (s : State) (b : Byte) (f : Flags) (c : Byte) (v : Bool) (r : Response) (q : List CfgRequest),
    ∃ t, exec (.push b) s = .next t ∧
      exec (.push b) { s with flags := f, cache := c, cacheValid := v, rsp := r, cfgOut := q } =
        .next { t with flags := f, cache := c, cacheValid := v, rsp := r, cfgOut := q }

/-- R28: slots outside the unread run are never read, and `CACHE` is not while `CACHE_VALID` is 0. Two
states that differ in nothing but the storage, and agree on the bytes still to be read, answer the
same, and still differ in nothing else; so do two that differ in nothing but `CACHE` with `CACHE_VALID`
0, and once a character is cached they do not differ at all. No statement rests on what an unwritten
slot or an empty cache holds (log entries 4 and 5). -/
def Obligations.StaleSlotsAreUnobservable : Prop :=
  (∀ (s : State) (m : Memory), s.inv = true → ({ s with buf := m } : State).inv = true →
    ({ s with buf := m } : State).visible = s.visible →
    (∀ t, step s = .next t →
      ∃ m', step { s with buf := m } = .next { t with buf := m' } ∧
        ({ t with buf := m' } : State).visible = t.visible) ∧
    (∀ r, step s = .refused r → step { s with buf := m } = .refused r)) ∧
  (∀ (s : State) (c : Byte), s.cacheValid = false →
    (∀ t, step s = .next t →
      ∃ c', step { s with cache := c } = .next { t with cache := c' } ∧
        (t.cacheValid = true → c' = t.cache)) ∧
    (∀ r, step s = .refused r → step { s with cache := c } = .refused r))

/-! ## Micro-steps and interleaving -/

/-- R76: each micro-step of the consumer operation in progress, run by a micro-step line of that
operation or with no line left (log entry 7), makes its one access to shared state. POP.1 on an empty
ring ends the operation the POP runs for: POP with `Empty` (R71), DECODE and READ with `None`,
AVAILABLE with `false` (R106, R120, R121). The split into these steps is the spec's own (R76:
92_eei_decisions.md D20, D25). -/
def Obligations.MicroStepsFollowTheTable : Prop :=
  ∀ (s : State) (rest : List Input),
    (s.inputs = [] ∧ rest = []) ∨ (∃ op, s.ctl.code = some op ∧ s.inputs = .micro op :: rest) →
    (∀ u, s.ctl = .popHead u → s.head ≠ s.tail →
      step s = .next { s with inputs := rest, ctl := .popSlot u }) ∧
    (s.ctl = .popHead .direct → s.head = s.tail →
      step s = .next { s with inputs := rest, ctl := .idle, rsp := .raw .empty }) ∧
    (s.ctl = .popHead (.word .decode) ∨ s.ctl = .popHead (.word .read) → s.head = s.tail →
      step s = .next { s with inputs := rest, ctl := .idle, rsp := .char .none }) ∧
    (s.ctl = .popHead (.word .available) → s.head = s.tail →
      step s = .next { s with inputs := rest, ctl := .idle, rsp := .bool false }) ∧
    (∀ u, s.ctl = .popSlot u →
      step s = .next { s with
        inputs := rest, ctl := .popTail u (s.buf.read ((s.tail + 1) % s.cfg.N)) }) ∧
    (∀ b, s.ctl = .popTail .direct b →
      step s = .next { s with
        inputs := rest, tail := (s.tail + 1) % s.cfg.N, ctl := .idle, rsp := .raw (.byte b) }) ∧
    (∀ u b, s.ctl = .popTail (.word u) b →
      step s = .next (Spec.afterWord { s with inputs := rest, tail := (s.tail + 1) % s.cfg.N }
        (Spec.word s.cfg s.flags b))) ∧
    (∀ u, s.ctl = .clearHead u →
      step s = .next { s with inputs := rest, ctl := .clearTail u s.head }) ∧
    (∀ h, s.ctl = .clearTail .clear h →
      step s = .next { s with inputs := rest, tail := h, ctl := .idle, rsp := .done }) ∧
    (∀ h, s.ctl = .clearTail .flush h →
      step s = .next { s with
        inputs := rest
        tail := h
        cacheValid := if s.cfg.flushClearsCache = true then false else s.cacheValid
        ctl := .idle
        rsp := .done }) ∧
    (s.ctl = .beginCfg →
      step s = .next { s with
        inputs := rest, cfgOut := s.cfgOut ++ [⟨s.cfg.baud, s.cfg.framing⟩], ctl := .beginHead }) ∧
    (s.ctl = .beginHead → step s = .next { s with inputs := rest, head := 0, ctl := .beginTail }) ∧
    (s.ctl = .beginTail →
      step s = .next { s with inputs := rest, tail := 0, ctl := .idle, rsp := .done })

/-- Every consumer operation, run by its micro-steps with no PUSH between them, is the whole
operation: the same final state, the same answer. -/
def Obligations.MicroStepsMakeTheWholeOperation : Prop :=
  ∀ (s : State) (op : Cmd), s.inv = true → s.ctl = .idle → op ≠ 7#3 →
    ∃ k, 1 ≤ k ∧
      s.runLines (List.replicate k (.micro op)) = exec (decodeCmd op) { s with inputs := [] }

/-- POP is linearizable: with PUSHes between its micro-steps it is a whole POP, placed at its first
micro-step when it answers `Empty`, and at its last when it returns a byte. -/
def Obligations.PopIsLinearizable : Prop :=
  ∀ (s : State) (bs cs : List Byte), s.inv = true → s.ctl = .idle →
    (s.head = s.tail → s.runLines [.micro 0#3] = s.runLines [.cmd 0#3]) ∧
    (s.head ≠ s.tail →
      s.runLines ([.micro 0#3] ++ rxLines bs ++ [.micro 0#3] ++ rxLines cs ++ [.micro 0#3]) =
        s.runLines (rxLines bs ++ rxLines cs ++ [.cmd 0#3]))

/-- A CLEAR with PUSHes between its two micro-steps leaves unread exactly the bytes of those PUSHes
that found room, counted against the old `TAIL`. -/
def Obligations.ClearKeepsBytesPushedAfterItsRead : Prop :=
  ∀ (s : State) (bs : List Byte), s.inv = true → s.ctl = .idle →
    ∃ t, s.runLines ([.micro 1#3] ++ rxLines bs ++ [.micro 1#3]) = .next t ∧
      t.unread = bs.take (s.cfg.N - 1 - s.occupancy) ∧ t.ctl = .idle ∧ t.rsp = .done

/-- CLEAR is not linearizable: with four slots and two bytes unread, two PUSHes between its
micro-steps leave the first byte unread and the second dropped, which no placement of a whole CLEAR
among the two PUSHes does. -/
def Obligations.ClearIsNotLinearizable : Prop :=
  ∃ s : State, s.ctl = .idle ∧ s.cfg.N = 4 ∧ s.unread = [0x11#8, 0x22#8] ∧
    (∃ t, s.runLines [.micro 1#3, .rx 0x33#8, .rx 0x44#8, .micro 1#3] = .next t ∧ t.unread = [0x33#8]) ∧
    (∃ t, s.runLines [.cmd 1#3, .rx 0x33#8, .rx 0x44#8] = .next t ∧ t.unread = [0x33#8, 0x44#8]) ∧
    (∃ t, s.runLines [.rx 0x33#8, .cmd 1#3, .rx 0x44#8] = .next t ∧ t.unread = [0x44#8]) ∧
    (∃ t, s.runLines [.rx 0x33#8, .rx 0x44#8, .cmd 1#3] = .next t ∧ t.unread = [])

/-- A DECODE need not return against a producer that never stops: for every number of rounds there is
a run of that many rounds, one PUSH and one loop iteration each, after which the same DECODE is still
in its loop. -/
def Obligations.DecodeMayRunForever : Prop :=
  ∀ (s : State) (n : Nat), s.inv = true → s.ctl = .idle → s.head = s.tail →
    ∃ t, s.runLines
        (List.replicate (n + 1) [Input.rx 0xF0#8, .micro 2#3, .micro 2#3, .micro 2#3]).flatten = .next t ∧
      t.ctl = .popHead (.word .decode) ∧ t.rsp = s.rsp

/-- R157: while a consumer operation is in progress, a whole consumer operation and a micro-step of
another one are refused. R157 gives overlapping operations no meaning and R130 names the refusal
(log entry 10). -/
def Obligations.OverlappingConsumerIsRefused : Prop :=
  ∀ (s : State) (op : Cmd) (rest : List Input), op ≠ 7#3 → s.ctl ≠ .idle →
    (s.inputs = .cmd op :: rest → step s = .refused .overlappingConsumer) ∧
    (s.inputs = .micro op :: rest → s.ctl.code ≠ some op → step s = .refused .overlappingConsumer)

/-- A BEGIN with PUSHes between its micro-steps leaves unread exactly the bytes pushed after its write
of `HEAD` that found room against the old `TAIL`. R158 lets a model choose between this and a refusal
("gives defined results"); this one admits the PUSHes (log entry 11). -/
def Obligations.BeginKeepsBytesPushedAfterItsWrite : Prop :=
  ∀ (s : State) (bs cs : List Byte), s.inv = true → s.ctl = .idle →
    ∃ t, s.runLines ([.micro 6#3] ++ rxLines bs ++ [.micro 6#3] ++ rxLines cs ++ [.micro 6#3]) = .next t ∧
      t.unread = cs.take (if s.tail = 0 then s.cfg.N - 1 else s.tail - 1) ∧
      t.tail = 0 ∧ t.ctl = .idle ∧ t.rsp = .done ∧ t.flags = s.flags ∧
      t.cache = s.cache ∧ t.cacheValid = s.cacheValid

/-! ## Result and flag forms, configuration provisos, traces -/

/-- R59: the widened READ result of a character is its byte, a value in 0x0001 .. 0x00FF; that of
`None` is 0xFFFF, which is -1 in two's complement. The widening is the spec's own choice (R59:
92_eei_decisions.md D13). -/
def Obligations.WidenedResults : Prop :=
  CharResult.widen .none = 0xFFFF#16 ∧ (CharResult.widen .none).toInt = -1 ∧
  (∀ c : Byte, c ≠ 0#8 →
    (CharResult.widen (.char c)).toNat = c.toNat ∧ 1 ≤ c.toNat ∧ c.toNat ≤ 255) ∧
  (∀ r q : CharResult, r.widen = q.widen → r = q)

/-- R61: the packing of the four flags, bit by bit, and back. The packing is the spec's own choice
(R61: 92_eei_decisions.md D7). -/
def Obligations.StateRegisterPacking : Prop :=
  (∀ f : Flags, f.pack.getLsbD 0 = f.brk ∧ f.pack.getLsbD 1 = f.modifier ∧
    f.pack.getLsbD 2 = f.shiftLeft ∧ f.pack.getLsbD 3 = f.shiftRight) ∧
  (∀ f : Flags, Flags.unpack f.pack = f) ∧
  (∀ v : BitVec 4, (Flags.unpack v).pack = v) ∧
  Flags.clear.pack = 0#4

/-- R167: `DEFAULT_US` with the default sentinels keeps the output bytes apart. The default tables
and sentinels are general knowledge and the spec's choices (log entry 2). `keepsApart` takes `EXT` as
one of R167's tables and allows no entry of `T_U`, `T_S` or the two keypad keys of `EXT` to be a
sentinel, the model's strict reading of R167 (log entry 29). -/
def Obligations.DefaultConfigurationKeepsBytesApart : Prop :=
  Config.default.keepsApart = true

/-- R66: each pseudo-operation is the PUSHes of the bytes R66 prints for it, independent of each other.
Whatever the consumer is doing, run with nothing between them they append those bytes to the unread
ones in that order as far as there is room, and the bytes without room are dropped; nothing of the
consumer's is touched. The six names are the spec's own (R66: 92_eei_decisions.md D29). -/
def Obligations.PseudoOperationsPushTheirBytes : Prop :=
  ∀ (s : State) (k : Byte), s.inv = true →
    ∀ (p : Pseudo) (bytes : List Byte),
      (p, bytes) ∈ [
        (Pseudo.make k, [k]),
        (Pseudo.brk k, [0xF0#8, k]),
        (Pseudo.xmake k, [0xE0#8, k]),
        (Pseudo.xbrk k, [0xE0#8, 0xF0#8, k]),
        (Pseudo.tap k, [k, 0xF0#8, k]),
        (Pseudo.xtap k, [0xE0#8, k, 0xE0#8, 0xF0#8, k])] →
      p.expand = bytes.map Input.rx ∧
      ∃ t, s.runLines p.expand = .next t ∧
        t.unread = s.unread ++ bytes.take (s.cfg.N - 1 - s.occupancy) ∧
        t = { s with buf := t.buf, head := t.head, inputs := [] }

/-- R63: the response of each consumer operation on the port, `rsp_present` and `rsp_data`, as R63's
table gives it. Where the table says "unspecified" the model has no byte (log entry 12). The table is
the spec's own (R63: 92_eei_decisions.md D16, D17, D19). -/
def Obligations.ResponsePortFollowsItsTable : Prop :=
  ∀ s : State, s.inv = true → s.ctl = .idle →
    (∃ t, exec .pop s = .next t ∧
      (s.unread = [] → t.rsp.present = some false ∧ t.rsp.data = none) ∧
      (∀ b rest, s.unread = b :: rest → t.rsp.present = some true ∧ t.rsp.data = some b)) ∧
    (∀ i, i = .clear ∨ i = .flush ∨ i = .beginOp →
      ∃ t, exec i s = .next t ∧ t.rsp.present = some false ∧ t.rsp.data = none) ∧
    (∀ i, i = .decode ∨ (i = .read ∧ s.cacheValid = false) →
      ∃ t, exec i s = .next t ∧
        ((Spec.decodeWords s.cfg s.flags s.unread).1 = .none →
          t.rsp.present = some false ∧ t.rsp.data = none) ∧
        (∀ c, (Spec.decodeWords s.cfg s.flags s.unread).1 = .char c →
          t.rsp.present = some true ∧ t.rsp.data = some c)) ∧
    (s.cacheValid = true →
      ∃ t, exec .read s = .next t ∧ t.rsp.present = some true ∧ t.rsp.data = some s.cache) ∧
    (∃ t, exec .available s = .next t ∧ t.rsp.data = none ∧
      t.rsp.present = some (s.cacheValid ||
        (Spec.decodeWords s.cfg s.flags s.unread).1 != .none))
end

