-- ==== Sys2Proof/Laws/Decode.lean ====
section
/-! SUPPORT. The decoder's shared facts: the extended-key lookup, the table read, and the port a
scan-code word's instruction stands on. -/

namespace Sys2Proof

/-- A key that the lookup finds has the code looked up. -/
theorem Config.code_of_keyOf {cfg : Config} {s : Byte} {k : ExtKey} (h : cfg.keyOf s = some k) :
    cfg.extCode.get k = s := by
  have := List.find?_some h
  simpa using this

/-- Every key is among the twelve. -/
theorem ExtKey.mem_all (k : ExtKey) : k ∈ ExtKey.all := by
  cases k <;> decide

/-- A code that no lookup finds is no key's code, and `EXT` is 0 there. -/
theorem Config.ext_of_keyOf_none {cfg : Config} {s : Byte} (h : cfg.keyOf s = none) :
    cfg.ext s = 0#8 := by
  unfold Config.ext
  rw [h]

theorem Config.ext_of_keyOf {cfg : Config} {s : Byte} {k : ExtKey} (h : cfg.keyOf s = some k) :
    cfg.ext s = cfg.extOut.get k := by
  unfold Config.ext
  rw [h]

/-- A byte with an entry in `EXT` is the code of a key. -/
theorem Config.keyOf_of_ext_ne_zero {cfg : Config} {s : Byte} (h : cfg.ext s ≠ 0#8) :
    ∃ k, cfg.keyOf s = some k := by
  cases hk : cfg.keyOf s with
  | none => exact absurd (Config.ext_of_keyOf_none hk) h
  | some k => exact ⟨k, rfl⟩

/-- The scan code of a key, with different codes for different keys, finds that key. -/
theorem Config.keyOf_code {cfg : Config} (h : (ExtKey.all.map cfg.extCode.get).Nodup) (k : ExtKey) :
    cfg.keyOf (cfg.extCode.get k) = some k := by
  have hinj : ∀ a ∈ ExtKey.all, ∀ b ∈ ExtKey.all, cfg.extCode.get a = cfg.extCode.get b → a = b :=
    fun a ha b hb => List.inj_on_of_nodup_map h ha hb
  cases hf : cfg.keyOf (cfg.extCode.get k) with
  | none =>
    have := List.find?_eq_none.1 hf k (ExtKey.mem_all k)
    simp at this
  | some j => rw [hinj j (ExtKey.mem_all j) k (ExtKey.mem_all k) (Config.code_of_keyOf hf)]

/-- A code at or above 128 reads no table. -/
theorem tableRead_of_high (table : List Byte) {s : Byte} (h : 128 ≤ s.toNat) : tableRead table s = 0#8 := by
  unfold tableRead
  rw [if_neg (by omega)]

theorem tableRead_of_low (table : List Byte) {s : Byte} (h : s.toNat < 128) :
    tableRead table s = table[s.toNat]?.getD 0#8 := by
  unfold tableRead
  rw [if_pos h]

@[simp] theorem Instr.ofKey_onPort (k : ExtKey) (c : Context) :
    (Instr.ofKey k).onPort (.scan c) = c.extended := by
  cases k <;> rfl

@[simp] theorem Instr.encode_ofKey (cfg : Config) (k : ExtKey) :
    encode cfg (Instr.ofKey k) = cfg.extCode.get k := by
  cases k <;> rfl

@[simp] theorem Instr.wf_ofKey (cfg : Config) (k : ExtKey) :
    (Instr.ofKey k).wf cfg = cfg.keyReachable k := by
  cases k <;> rfl

/-- What an extended code decodes to. -/
theorem decodeExtended_cases (cfg : Config) (s : Byte) :
    (cfg.ext s = 0#8 ∧ decodeExtended cfg s = .scXnone s) ∨
    (∃ k, cfg.ext s ≠ 0#8 ∧ cfg.keyOf s = some k ∧ decodeExtended cfg s = Instr.ofKey k) := by
  unfold decodeExtended
  by_cases h : cfg.ext s = 0#8
  · exact .inl ⟨h, if_pos h⟩
  · obtain ⟨k, hk⟩ := Config.keyOf_of_ext_ne_zero h
    refine .inr ⟨k, h, hk, ?_⟩
    rw [if_neg h, hk]

/-- The ten tests of R51, said once: which class a word is, and under which of the tests. -/
theorem decodeWord_cases (cfg : Config) (c : Context) (s : Byte) :
    (s = 0xF0#8 ∧ decodeWord cfg c s = .scBrk) ∨
    (s ≠ 0xF0#8 ∧ s = 0xE0#8 ∧ decodeWord cfg c s = .scExt) ∨
    (s ≠ 0xF0#8 ∧ s ≠ 0xE0#8 ∧ c.brk = true ∧ decodeWord cfg c s = .scRel s) ∨
    (c.brk = false ∧ s = 0x12#8 ∧ decodeWord cfg c s = .scLsh) ∨
    (c.brk = false ∧ s = 0x59#8 ∧ decodeWord cfg c s = .scRsh) ∨
    (isLookupCode s = true ∧ c.brk = false ∧ c.modifier = true ∧
      decodeWord cfg c s = decodeExtended cfg s) ∨
    (isLookupCode s = true ∧ c.brk = false ∧ c.modifier = false ∧ 128 ≤ s.toNat ∧
      decodeWord cfg c s = .scHigh s) ∨
    (isLookupCode s = true ∧ c.brk = false ∧ c.modifier = false ∧ s.toNat < 128 ∧ c.shift = true ∧
      decodeWord cfg c s = .scKeys s) ∨
    (isLookupCode s = true ∧ c.brk = false ∧ c.modifier = false ∧ s.toNat < 128 ∧ c.shift = false ∧
      decodeWord cfg c s = .scKeyu s) := by
  obtain ⟨b, m, sh⟩ := c
  unfold decodeWord isLookupCode isKeyCode
  by_cases h1 : s = 0xF0#8
  · simp [h1]
  by_cases h2 : s = 0xE0#8
  · simp [h2]
  cases b
  case true => simp [h1, h2]
  by_cases h3 : s = 0x12#8
  · simp [h3]
  by_cases h4 : s = 0x59#8
  · simp [h4]
  cases m
  case true => simp [h1, h2, h3, h4]
  by_cases h5 : 128 ≤ s.toNat
  · simp [h1, h2, h3, h4, h5]
  · cases sh <;> simp [h1, h2, h3, h4, h5] <;> omega

theorem decodeExtended_onPort (cfg : Config) (s : Byte) (c : Context) :
    (decodeExtended cfg s).onPort (.scan c) = c.extended := by
  rcases decodeExtended_cases cfg s with ⟨-, h⟩ | ⟨k, -, -, h⟩ <;> rw [h]
  · rfl
  · exact Instr.ofKey_onPort k c

/-- A scan-code word decodes to a row that applies to it: never to an operation of a port. -/
theorem decodeWord_onPort (cfg : Config) (c : Context) (s : Byte) :
    (decodeWord cfg c s).onPort (.scan c) = true := by
  rcases decodeWord_cases cfg c s with ⟨-, h⟩ | ⟨-, -, h⟩ | ⟨-, -, hb, h⟩ | ⟨hb, -, h⟩ | ⟨hb, -, h⟩ |
    ⟨-, hb, hm, h⟩ | ⟨-, hb, hm, -, h⟩ | ⟨-, hb, hm, -, hs, h⟩ | ⟨-, hb, hm, -, hs, h⟩ <;> rw [h]
  case inr.inr.inr.inr.inr.inl => simp [decodeExtended_onPort, Context.extended, hb, hm]
  all_goals simp_all [Instr.onPort, Port.isScan, Context.plain]

end Sys2Proof
end

