-- ==== Sys2Proof/Laws/Memory.lean ====
section
/-! SUPPORT. The laws of the byte memory: a read after a write, and the canonical form kept by
every operation. -/

namespace Sys2Proof.Machine

@[simp] theorem Memory.read_nil (a : Nat) : Memory.read [] a = Memory.unlisted := rfl

theorem Memory.read_cons (k : Nat) (v : Byte) (rest : Memory) (a : Nat) :
    Memory.read ((k, v) :: rest) a = if a = k then v else Memory.read rest a := rfl

@[simp] theorem Memory.wf_nil : Memory.wf [] = true := rfl

@[simp] theorem Memory.below_nil (n : Nat) : Memory.below n [] = true := rfl

theorem Memory.wfFrom_cons (lo k : Nat) (v : Byte) (rest : Memory) :
    Memory.wfFrom lo ((k, v) :: rest) = true ↔
      lo ≤ k ∧ v ≠ Memory.unlisted ∧ Memory.wfFrom (k + 1) rest = true := by
  simp [Memory.wfFrom, and_assoc]

theorem Memory.wfFrom_mono {lo lo' : Nat} (h : lo' ≤ lo) {m : Memory} (hm : Memory.wfFrom lo m = true) :
    Memory.wfFrom lo' m = true := by
  cases m with
  | nil => rfl
  | cons c rest =>
    obtain ⟨k, v⟩ := c
    rw [Memory.wfFrom_cons] at hm ⊢
    exact ⟨by omega, hm.2⟩

/-- Below the first address of a canonical memory nothing is listed. -/
theorem Memory.read_of_lt {lo a : Nat} {m : Memory} (hm : Memory.wfFrom lo m = true) (h : a < lo) :
    m.read a = Memory.unlisted := by
  induction m generalizing lo with
  | nil => rfl
  | cons c rest ih =>
    obtain ⟨k, v⟩ := c
    rw [Memory.wfFrom_cons] at hm
    rw [Memory.read_cons, if_neg (by omega), ih hm.2.2 (by omega)]

/-- A read after a write: the byte at the address written, what was there at every other one. -/
theorem Memory.read_write {lo : Nat} {m : Memory} (hm : Memory.wfFrom lo m = true) (a : Nat) (b : Byte)
    (x : Nat) : (m.write a b).read x = if x = a then b else m.read x := by
  induction m generalizing lo with
  | nil =>
    unfold Memory.write
    split <;> split <;> simp_all [Memory.read_cons]
  | cons c rest ih =>
    obtain ⟨k, v⟩ := c
    rw [Memory.wfFrom_cons] at hm
    have hrest := hm.2.2
    unfold Memory.write
    split
    · rename_i hlt
      have hunl : x = a → Memory.read ((k, v) :: rest) x = Memory.unlisted := by
        intro hx
        rw [Memory.read_cons, if_neg (by omega), Memory.read_of_lt hrest (by omega)]
      split
      · rename_i hb
        by_cases hx : x = a
        · rw [hunl hx, if_pos hx, hb]
        · rw [if_neg hx]
      · rw [Memory.read_cons (k := a)]
    · split
      · rename_i hk
        subst hk
        split
        · rename_i hb
          by_cases hx : x = a
          · rw [if_pos hx, Memory.read_of_lt hrest (by omega), hb]
          · rw [if_neg hx, Memory.read_cons, if_neg hx]
        · rw [Memory.read_cons, Memory.read_cons]
          by_cases hx : x = a <;> simp [hx]
      · rename_i hlt hk
        rw [Memory.read_cons, ih hrest, Memory.read_cons]
        by_cases hx : x = a
        · subst hx; simp [hk]
        · simp [hx]

theorem Memory.wfFrom_write {lo : Nat} {m : Memory} (hm : Memory.wfFrom lo m = true) {a : Nat} (b : Byte)
    (ha : lo ≤ a) : Memory.wfFrom lo (m.write a b) = true := by
  induction m generalizing lo with
  | nil =>
    unfold Memory.write
    split
    · rfl
    · rename_i hb
      rw [Memory.wfFrom_cons]
      exact ⟨ha, hb, rfl⟩
  | cons c rest ih =>
    obtain ⟨k, v⟩ := c
    have hm' := hm
    rw [Memory.wfFrom_cons] at hm
    unfold Memory.write
    split
    · split
      · exact hm'
      · rename_i hlt hb
        rw [Memory.wfFrom_cons, Memory.wfFrom_cons]
        exact ⟨ha, hb, by omega, hm.2⟩
    · split
      · split
        · exact Memory.wfFrom_mono (by omega) hm.2.2
        · rename_i hk hb
          subst hk
          rw [Memory.wfFrom_cons]
          exact ⟨ha, hb, hm.2.2⟩
      · rw [Memory.wfFrom_cons]
        exact ⟨hm.1, hm.2.1, ih hm.2.2 (by omega)⟩

/-- Writing keeps the canonical form. -/
theorem Memory.wf_write {m : Memory} (hm : m.wf = true) (a : Nat) (b : Byte) :
    (m.write a b).wf = true :=
  Memory.wfFrom_write hm b (Nat.zero_le a)

theorem Memory.below_cons (n k : Nat) (v : Byte) (rest : Memory) :
    Memory.below n ((k, v) :: rest) = true ↔ k < n ∧ Memory.below n rest = true := by
  simp only [Memory.below, List.all_cons, Bool.and_eq_true, decide_eq_true_eq]

/-- Writing within a bound keeps every listed address within it. -/
theorem Memory.below_write {n : Nat} {m : Memory} (hm : m.below n = true) {a : Nat} (b : Byte)
    (ha : a < n) : (m.write a b).below n = true := by
  induction m with
  | nil =>
    unfold Memory.write
    split
    · rfl
    · exact (Memory.below_cons ..).2 ⟨ha, rfl⟩
  | cons c rest ih =>
    obtain ⟨k, v⟩ := c
    obtain ⟨hk, hrest⟩ := (Memory.below_cons ..).1 hm
    unfold Memory.write
    split_ifs
    · exact hm
    · exact (Memory.below_cons ..).2 ⟨ha, hm⟩
    · exact hrest
    · exact (Memory.below_cons ..).2 ⟨ha, hrest⟩
    · exact (Memory.below_cons ..).2 ⟨hk, ih hrest⟩

/-- Two canonical memories that read alike are equal: equal contents are equal data. -/
theorem Memory.ext_of_wf {lo : Nat} {m n : Memory} (hm : Memory.wfFrom lo m = true)
    (hn : Memory.wfFrom lo n = true) (h : ∀ a, m.read a = n.read a) : m = n := by
  induction m generalizing lo n with
  | nil =>
    cases n with
    | nil => rfl
    | cons c rest =>
      obtain ⟨k, v⟩ := c
      rw [Memory.wfFrom_cons] at hn
      have := h k
      rw [Memory.read_cons, if_pos rfl] at this
      exact absurd this.symm hn.2.1
  | cons c rest ih =>
    obtain ⟨k, v⟩ := c
    have hm0 := hm
    rw [Memory.wfFrom_cons] at hm
    cases n with
    | nil =>
      have := h k
      rw [Memory.read_cons, if_pos rfl] at this
      exact absurd this hm.2.1
    | cons d rest' =>
      obtain ⟨l, w⟩ := d
      have hn0 := hn
      rw [Memory.wfFrom_cons] at hn
      have hkl : k = l := by
        rcases Nat.lt_trichotomy k l with hlt | heq | hgt
        · have := h k
          rw [Memory.read_cons, if_pos rfl, Memory.read_cons, if_neg (by omega),
            Memory.read_of_lt hn.2.2 (by omega)] at this
          exact absurd this hm.2.1
        · exact heq
        · have := h l
          rw [Memory.read_cons, if_neg (by omega), Memory.read_of_lt hm.2.2 (by omega),
            Memory.read_cons, if_pos rfl] at this
          exact absurd this.symm hn.2.1
      subst hkl
      have hv : v = w := by simpa [Memory.read_cons] using h k
      subst hv
      have hrest : rest = rest' := by
        apply ih hm.2.2 hn.2.2
        intro a
        by_cases ha : a = k
        · subst ha
          rw [Memory.read_of_lt hm.2.2 (by omega), Memory.read_of_lt hn.2.2 (by omega)]
        · simpa [Memory.read_cons, ha] using h a
      rw [hrest]

end Sys2Proof.Machine
end

