-- ==== Sys2Proof/Laws/PerInstr.lean ====
section
/-! SUPPORT. Statements about every instruction, proved one constructor at a time. -/

namespace Sys2Proof.Laws.TableBits

/-- The bits of a byte that the instruction's row of spec/opcode_table.json fixes (its `mask`). -/
def mask : Instr → Byte
  | .push _ => 0x00#8
  | .pop => 0x07#8
  | .clear => 0x07#8
  | .decode => 0x07#8
  | .available => 0x07#8
  | .read => 0x07#8
  | .flush => 0x07#8
  | .beginOp => 0x07#8
  | .rsvd7 => 0x07#8
  | .scBrk => 0xFF#8
  | .scExt => 0xFF#8
  | .scRel _ => 0x00#8
  | .scLsh => 0xFF#8
  | .scRsh => 0xFF#8
  | .scXInsert => 0xFF#8
  | .scXHome => 0xFF#8
  | .scXPageup => 0xFF#8
  | .scXDelete => 0xFF#8
  | .scXEnd => 0xFF#8
  | .scXPagedown => 0xFF#8
  | .scXUp => 0xFF#8
  | .scXLeft => 0xFF#8
  | .scXDown => 0xFF#8
  | .scXRight => 0xFF#8
  | .scXKpslash => 0xFF#8
  | .scXKpenter => 0xFF#8
  | .scXnone _ => 0x00#8
  | .scHigh _ => 0x80#8
  | .scKeys _ => 0x80#8
  | .scKeyu _ => 0x80#8

/-- The value of those bits (the row's `match`). -/
def mtch : Instr → Byte
  | .push _ => 0x00#8
  | .pop => 0x00#8
  | .clear => 0x01#8
  | .decode => 0x02#8
  | .available => 0x03#8
  | .read => 0x04#8
  | .flush => 0x05#8
  | .beginOp => 0x06#8
  | .rsvd7 => 0x07#8
  | .scBrk => 0xF0#8
  | .scExt => 0xE0#8
  | .scRel _ => 0x00#8
  | .scLsh => 0x12#8
  | .scRsh => 0x59#8
  | .scXInsert => 0x70#8
  | .scXHome => 0x6C#8
  | .scXPageup => 0x7D#8
  | .scXDelete => 0x71#8
  | .scXEnd => 0x69#8
  | .scXPagedown => 0x7A#8
  | .scXUp => 0x75#8
  | .scXLeft => 0x6B#8
  | .scXDown => 0x72#8
  | .scXRight => 0x74#8
  | .scXKpslash => 0x4A#8
  | .scXKpenter => 0x5A#8
  | .scXnone _ => 0x00#8
  | .scHigh _ => 0x80#8
  | .scKeys _ => 0x00#8
  | .scKeyu _ => 0x00#8

/-- The byte of a well-formed instruction under the default configuration holds what its row of the
opcode table fixes (30_encoding.md R67). -/
def Statement (i : Instr) : Prop :=
  i.wf Config.default = true → encode Config.default i &&& mask i = mtch i

/-- Bit 7 alone, from the value. -/
theorem bit7_of_high (s : Byte) : 128 ≤ s.toNat → s &&& 0x80#8 = 0x80#8 := by
  revert s
  decide

theorem bit7_of_low (s : Byte) : s.toNat < 128 → s &&& 0x80#8 = 0x00#8 := by
  revert s
  decide

theorem push (d : Byte) : Statement (.push d) := fun _ => BitVec.and_zero
theorem pop : Statement .pop := fun _ => rfl
theorem clear : Statement .clear := fun _ => rfl
theorem decode : Statement .decode := fun _ => rfl
theorem available : Statement .available := fun _ => rfl
theorem read : Statement .read := fun _ => rfl
theorem flush : Statement .flush := fun _ => rfl
theorem beginOp : Statement .beginOp := fun _ => rfl
theorem rsvd7 : Statement .rsvd7 := fun _ => rfl
theorem scBrk : Statement .scBrk := fun _ => rfl
theorem scExt : Statement .scExt := fun _ => rfl
theorem scRel (s : Byte) : Statement (.scRel s) := fun _ => BitVec.and_zero
theorem scLsh : Statement .scLsh := fun _ => rfl
theorem scRsh : Statement .scRsh := fun _ => rfl
theorem scXInsert : Statement .scXInsert := fun _ => rfl
theorem scXHome : Statement .scXHome := fun _ => rfl
theorem scXPageup : Statement .scXPageup := fun _ => rfl
theorem scXDelete : Statement .scXDelete := fun _ => rfl
theorem scXEnd : Statement .scXEnd := fun _ => rfl
theorem scXPagedown : Statement .scXPagedown := fun _ => rfl
theorem scXUp : Statement .scXUp := fun _ => rfl
theorem scXLeft : Statement .scXLeft := fun _ => rfl
theorem scXDown : Statement .scXDown := fun _ => rfl
theorem scXRight : Statement .scXRight := fun _ => rfl
theorem scXKpslash : Statement .scXKpslash := fun _ => rfl
theorem scXKpenter : Statement .scXKpenter := fun _ => rfl
theorem scXnone (s : Byte) : Statement (.scXnone s) := fun _ => BitVec.and_zero

theorem scHigh (s : Byte) : Statement (.scHigh s) := by
  intro h
  simp only [Instr.wf, Bool.and_eq_true, decide_eq_true_eq] at h
  exact bit7_of_high s h.2

theorem scKeys (s : Byte) : Statement (.scKeys s) := by
  intro h
  simp only [Instr.wf, Bool.and_eq_true, decide_eq_true_eq] at h
  exact bit7_of_low s h.2

theorem scKeyu (s : Byte) : Statement (.scKeyu s) := by
  intro h
  simp only [Instr.wf, Bool.and_eq_true, decide_eq_true_eq] at h
  exact bit7_of_low s h.2

end Sys2Proof.Laws.TableBits
end

