-- ==== Sys2Proof/Laws/State.lean ====
section
/-! SUPPORT. One lemma per field per named update of State, so that no later proof unfolds a record
update. -/

namespace Sys2Proof.Machine

/-! ## Cold reset -/

@[simp] theorem State.reset_cfg : State.reset.cfg = Config.default := rfl
@[simp] theorem State.reset_buf : State.reset.buf = [] := rfl
@[simp] theorem State.reset_head : State.reset.head = 0 := rfl
@[simp] theorem State.reset_tail : State.reset.tail = 0 := rfl
@[simp] theorem State.reset_flags : State.reset.flags = Flags.clear := rfl
@[simp] theorem State.reset_cache : State.reset.cache = 0#8 := rfl
@[simp] theorem State.reset_cacheValid : State.reset.cacheValid = false := rfl
@[simp] theorem State.reset_ctl : State.reset.ctl = .idle := rfl
@[simp] theorem State.reset_rsp : State.reset.rsp = .noResponse := rfl
@[simp] theorem State.reset_cfgOut : State.reset.cfgOut = [] := rfl
@[simp] theorem State.reset_inputs : State.reset.inputs = [] := rfl

/-! ## The end of a consumer operation -/

@[simp] theorem State.finish_cfg (s : State) (r : Response) : (s.finish r).cfg = s.cfg := rfl
@[simp] theorem State.finish_buf (s : State) (r : Response) : (s.finish r).buf = s.buf := rfl
@[simp] theorem State.finish_head (s : State) (r : Response) : (s.finish r).head = s.head := rfl
@[simp] theorem State.finish_tail (s : State) (r : Response) : (s.finish r).tail = s.tail := rfl
@[simp] theorem State.finish_flags (s : State) (r : Response) : (s.finish r).flags = s.flags := rfl
@[simp] theorem State.finish_cache (s : State) (r : Response) : (s.finish r).cache = s.cache := rfl
@[simp] theorem State.finish_cacheValid (s : State) (r : Response) : (s.finish r).cacheValid = s.cacheValid := rfl
@[simp] theorem State.finish_ctl (s : State) (r : Response) : (s.finish r).ctl = .idle := rfl
@[simp] theorem State.finish_rsp (s : State) (r : Response) : (s.finish r).rsp = r := rfl
@[simp] theorem State.finish_cfgOut (s : State) (r : Response) : (s.finish r).cfgOut = s.cfgOut := rfl
@[simp] theorem State.finish_inputs (s : State) (r : Response) : (s.finish r).inputs = s.inputs := rfl

/-! ## The write of `TAIL` by POP -/

@[simp] theorem State.advanceTail_cfg (s : State) : (s.advanceTail).cfg = s.cfg := rfl
@[simp] theorem State.advanceTail_buf (s : State) : (s.advanceTail).buf = s.buf := rfl
@[simp] theorem State.advanceTail_head (s : State) : (s.advanceTail).head = s.head := rfl
@[simp] theorem State.advanceTail_tail (s : State) : (s.advanceTail).tail = s.nextTail := rfl
@[simp] theorem State.advanceTail_flags (s : State) : (s.advanceTail).flags = s.flags := rfl
@[simp] theorem State.advanceTail_cache (s : State) : (s.advanceTail).cache = s.cache := rfl
@[simp] theorem State.advanceTail_cacheValid (s : State) : (s.advanceTail).cacheValid = s.cacheValid := rfl
@[simp] theorem State.advanceTail_ctl (s : State) : (s.advanceTail).ctl = s.ctl := rfl
@[simp] theorem State.advanceTail_rsp (s : State) : (s.advanceTail).rsp = s.rsp := rfl
@[simp] theorem State.advanceTail_cfgOut (s : State) : (s.advanceTail).cfgOut = s.cfgOut := rfl
@[simp] theorem State.advanceTail_inputs (s : State) : (s.advanceTail).inputs = s.inputs := rfl

/-! ## The write of `TAIL` by CLEAR -/

@[simp] theorem State.setTail_cfg (s : State) (h : Nat) : (s.setTail h).cfg = s.cfg := rfl
@[simp] theorem State.setTail_buf (s : State) (h : Nat) : (s.setTail h).buf = s.buf := rfl
@[simp] theorem State.setTail_head (s : State) (h : Nat) : (s.setTail h).head = s.head := rfl
@[simp] theorem State.setTail_tail (s : State) (h : Nat) : (s.setTail h).tail = h := rfl
@[simp] theorem State.setTail_flags (s : State) (h : Nat) : (s.setTail h).flags = s.flags := rfl
@[simp] theorem State.setTail_cache (s : State) (h : Nat) : (s.setTail h).cache = s.cache := rfl
@[simp] theorem State.setTail_cacheValid (s : State) (h : Nat) : (s.setTail h).cacheValid = s.cacheValid := rfl
@[simp] theorem State.setTail_ctl (s : State) (h : Nat) : (s.setTail h).ctl = s.ctl := rfl
@[simp] theorem State.setTail_rsp (s : State) (h : Nat) : (s.setTail h).rsp = s.rsp := rfl
@[simp] theorem State.setTail_cfgOut (s : State) (h : Nat) : (s.setTail h).cfgOut = s.cfgOut := rfl
@[simp] theorem State.setTail_inputs (s : State) (h : Nat) : (s.setTail h).inputs = s.inputs := rfl

/-! ## The configuration request -/

@[simp] theorem State.issueConfig_cfg (s : State) : (s.issueConfig).cfg = s.cfg := rfl
@[simp] theorem State.issueConfig_buf (s : State) : (s.issueConfig).buf = s.buf := rfl
@[simp] theorem State.issueConfig_head (s : State) : (s.issueConfig).head = s.head := rfl
@[simp] theorem State.issueConfig_tail (s : State) : (s.issueConfig).tail = s.tail := rfl
@[simp] theorem State.issueConfig_flags (s : State) : (s.issueConfig).flags = s.flags := rfl
@[simp] theorem State.issueConfig_cache (s : State) : (s.issueConfig).cache = s.cache := rfl
@[simp] theorem State.issueConfig_cacheValid (s : State) : (s.issueConfig).cacheValid = s.cacheValid := rfl
@[simp] theorem State.issueConfig_ctl (s : State) : (s.issueConfig).ctl = s.ctl := rfl
@[simp] theorem State.issueConfig_rsp (s : State) : (s.issueConfig).rsp = s.rsp := rfl
@[simp] theorem State.issueConfig_cfgOut (s : State) : (s.issueConfig).cfgOut = s.cfgOut ++ [⟨s.cfg.baud, s.cfg.framing⟩] := rfl
@[simp] theorem State.issueConfig_inputs (s : State) : (s.issueConfig).inputs = s.inputs := rfl

/-! ## `continue` of the decoder's loop -/

@[simp] theorem State.continueLoop_cfg (s : State) : (s.continueLoop).cfg = s.cfg := rfl
@[simp] theorem State.continueLoop_buf (s : State) : (s.continueLoop).buf = s.buf := rfl
@[simp] theorem State.continueLoop_head (s : State) : (s.continueLoop).head = s.head := rfl
@[simp] theorem State.continueLoop_tail (s : State) : (s.continueLoop).tail = s.tail := rfl
@[simp] theorem State.continueLoop_flags (s : State) : (s.continueLoop).flags = s.flags := rfl
@[simp] theorem State.continueLoop_cache (s : State) : (s.continueLoop).cache = s.cache := rfl
@[simp] theorem State.continueLoop_cacheValid (s : State) : (s.continueLoop).cacheValid = s.cacheValid := rfl
@[simp] theorem State.continueLoop_ctl (s : State) : (s.continueLoop).ctl = .popHead (.word s.ctl.decodeUser) := rfl
@[simp] theorem State.continueLoop_rsp (s : State) : (s.continueLoop).rsp = s.rsp := rfl
@[simp] theorem State.continueLoop_cfgOut (s : State) : (s.continueLoop).cfgOut = s.cfgOut := rfl
@[simp] theorem State.continueLoop_inputs (s : State) : (s.continueLoop).inputs = s.inputs := rfl

/-! ## A cached character returned -/

@[simp] theorem State.takeCached_cfg (s : State) : (s.takeCached).cfg = s.cfg := rfl
@[simp] theorem State.takeCached_buf (s : State) : (s.takeCached).buf = s.buf := rfl
@[simp] theorem State.takeCached_head (s : State) : (s.takeCached).head = s.head := rfl
@[simp] theorem State.takeCached_tail (s : State) : (s.takeCached).tail = s.tail := rfl
@[simp] theorem State.takeCached_flags (s : State) : (s.takeCached).flags = s.flags := rfl
@[simp] theorem State.takeCached_cache (s : State) : (s.takeCached).cache = s.cache := rfl
@[simp] theorem State.takeCached_cacheValid (s : State) : (s.takeCached).cacheValid = false := rfl
@[simp] theorem State.takeCached_ctl (s : State) : (s.takeCached).ctl = .idle := rfl
@[simp] theorem State.takeCached_rsp (s : State) : (s.takeCached).rsp = .char (.char s.cache) := rfl
@[simp] theorem State.takeCached_cfgOut (s : State) : (s.takeCached).cfgOut = s.cfgOut := rfl
@[simp] theorem State.takeCached_inputs (s : State) : (s.takeCached).inputs = s.inputs := rfl

/-! ## PUSH -/

@[simp] theorem State.pushByte_cfg (s : State) (b : Byte) : (s.pushByte b).cfg = s.cfg := by
  unfold State.pushByte; split <;> rfl
theorem State.pushByte_buf (s : State) (b : Byte) :
    (s.pushByte b).buf = if s.nextHead = s.tail then s.buf else s.buf.write s.nextHead b := by
  unfold State.pushByte; split <;> rfl
theorem State.pushByte_head (s : State) (b : Byte) :
    (s.pushByte b).head = if s.nextHead = s.tail then s.head else s.nextHead := by
  unfold State.pushByte; split <;> rfl
@[simp] theorem State.pushByte_tail (s : State) (b : Byte) : (s.pushByte b).tail = s.tail := by
  unfold State.pushByte; split <;> rfl
@[simp] theorem State.pushByte_flags (s : State) (b : Byte) : (s.pushByte b).flags = s.flags := by
  unfold State.pushByte; split <;> rfl
@[simp] theorem State.pushByte_cache (s : State) (b : Byte) : (s.pushByte b).cache = s.cache := by
  unfold State.pushByte; split <;> rfl
@[simp] theorem State.pushByte_cacheValid (s : State) (b : Byte) : (s.pushByte b).cacheValid = s.cacheValid := by
  unfold State.pushByte; split <;> rfl
@[simp] theorem State.pushByte_ctl (s : State) (b : Byte) : (s.pushByte b).ctl = s.ctl := by
  unfold State.pushByte; split <;> rfl
@[simp] theorem State.pushByte_rsp (s : State) (b : Byte) : (s.pushByte b).rsp = s.rsp := by
  unfold State.pushByte; split <;> rfl
@[simp] theorem State.pushByte_cfgOut (s : State) (b : Byte) : (s.pushByte b).cfgOut = s.cfgOut := by
  unfold State.pushByte; split <;> rfl
@[simp] theorem State.pushByte_inputs (s : State) (b : Byte) : (s.pushByte b).inputs = s.inputs := by
  unfold State.pushByte; split <;> rfl

/-! ## The cache part of FLUSH -/

@[simp] theorem State.flushCache_cfg (s : State) : s.flushCache.cfg = s.cfg := by
  unfold State.flushCache; split <;> rfl
@[simp] theorem State.flushCache_buf (s : State) : s.flushCache.buf = s.buf := by
  unfold State.flushCache; split <;> rfl
@[simp] theorem State.flushCache_head (s : State) : s.flushCache.head = s.head := by
  unfold State.flushCache; split <;> rfl
@[simp] theorem State.flushCache_tail (s : State) : s.flushCache.tail = s.tail := by
  unfold State.flushCache; split <;> rfl
@[simp] theorem State.flushCache_flags (s : State) : s.flushCache.flags = s.flags := by
  unfold State.flushCache; split <;> rfl
@[simp] theorem State.flushCache_cache (s : State) : s.flushCache.cache = s.cache := by
  unfold State.flushCache; split <;> rfl
theorem State.flushCache_cacheValid (s : State) :
    s.flushCache.cacheValid = if s.cfg.flushClearsCache = true then false else s.cacheValid := by
  unfold State.flushCache; split <;> rfl
@[simp] theorem State.flushCache_ctl (s : State) : s.flushCache.ctl = s.ctl := by
  unfold State.flushCache; split <;> rfl
@[simp] theorem State.flushCache_rsp (s : State) : s.flushCache.rsp = s.rsp := by
  unfold State.flushCache; split <;> rfl
@[simp] theorem State.flushCache_cfgOut (s : State) : s.flushCache.cfgOut = s.cfgOut := by
  unfold State.flushCache; split <;> rfl
@[simp] theorem State.flushCache_inputs (s : State) : s.flushCache.inputs = s.inputs := by
  unfold State.flushCache; split <;> rfl

/-! ## answerNone -/

@[simp] theorem State.answerNone_cfg (s : State) (u : DecodeUser) : (s.answerNone u).cfg = s.cfg := by
  cases u <;> rfl
@[simp] theorem State.answerNone_buf (s : State) (u : DecodeUser) : (s.answerNone u).buf = s.buf := by
  cases u <;> rfl
@[simp] theorem State.answerNone_head (s : State) (u : DecodeUser) : (s.answerNone u).head = s.head := by
  cases u <;> rfl
@[simp] theorem State.answerNone_tail (s : State) (u : DecodeUser) : (s.answerNone u).tail = s.tail := by
  cases u <;> rfl
@[simp] theorem State.answerNone_flags (s : State) (u : DecodeUser) : (s.answerNone u).flags = s.flags := by
  cases u <;> rfl
@[simp] theorem State.answerNone_cache (s : State) (u : DecodeUser) : (s.answerNone u).cache = s.cache := by
  cases u <;> rfl
@[simp] theorem State.answerNone_cacheValid (s : State) (u : DecodeUser) : (s.answerNone u).cacheValid = s.cacheValid := by
  cases u <;> rfl
@[simp] theorem State.answerNone_ctl (s : State) (u : DecodeUser) : (s.answerNone u).ctl = .idle := by cases u <;> rfl
@[simp] theorem State.answerNone_cfgOut (s : State) (u : DecodeUser) : (s.answerNone u).cfgOut = s.cfgOut := by
  cases u <;> rfl
@[simp] theorem State.answerNone_inputs (s : State) (u : DecodeUser) : (s.answerNone u).inputs = s.inputs := by
  cases u <;> rfl

/-! ## answerChar -/

@[simp] theorem State.answerChar_cfg (s : State) (c : Byte) (u : DecodeUser) : (s.answerChar c u).cfg = s.cfg := by
  cases u <;> rfl
@[simp] theorem State.answerChar_buf (s : State) (c : Byte) (u : DecodeUser) : (s.answerChar c u).buf = s.buf := by
  cases u <;> rfl
@[simp] theorem State.answerChar_head (s : State) (c : Byte) (u : DecodeUser) : (s.answerChar c u).head = s.head := by
  cases u <;> rfl
@[simp] theorem State.answerChar_tail (s : State) (c : Byte) (u : DecodeUser) : (s.answerChar c u).tail = s.tail := by
  cases u <;> rfl
@[simp] theorem State.answerChar_flags (s : State) (c : Byte) (u : DecodeUser) : (s.answerChar c u).flags = s.flags := by
  cases u <;> rfl
@[simp] theorem State.answerChar_ctl (s : State) (c : Byte) (u : DecodeUser) : (s.answerChar c u).ctl = .idle := by cases u <;> rfl
@[simp] theorem State.answerChar_cfgOut (s : State) (c : Byte) (u : DecodeUser) : (s.answerChar c u).cfgOut = s.cfgOut := by
  cases u <;> rfl
@[simp] theorem State.answerChar_inputs (s : State) (c : Byte) (u : DecodeUser) : (s.answerChar c u).inputs = s.inputs := by
  cases u <;> rfl

/-! ## answerEmpty -/

@[simp] theorem State.answerEmpty_cfg (s : State) (u : PopUser) : (s.answerEmpty u).cfg = s.cfg := by cases u <;> simp [State.answerEmpty]
@[simp] theorem State.answerEmpty_buf (s : State) (u : PopUser) : (s.answerEmpty u).buf = s.buf := by cases u <;> simp [State.answerEmpty]
@[simp] theorem State.answerEmpty_head (s : State) (u : PopUser) : (s.answerEmpty u).head = s.head := by cases u <;> simp [State.answerEmpty]
@[simp] theorem State.answerEmpty_tail (s : State) (u : PopUser) : (s.answerEmpty u).tail = s.tail := by cases u <;> simp [State.answerEmpty]
@[simp] theorem State.answerEmpty_flags (s : State) (u : PopUser) : (s.answerEmpty u).flags = s.flags := by cases u <;> simp [State.answerEmpty]
@[simp] theorem State.answerEmpty_cache (s : State) (u : PopUser) : (s.answerEmpty u).cache = s.cache := by cases u <;> simp [State.answerEmpty]
@[simp] theorem State.answerEmpty_cacheValid (s : State) (u : PopUser) : (s.answerEmpty u).cacheValid = s.cacheValid := by cases u <;> simp [State.answerEmpty]
@[simp] theorem State.answerEmpty_ctl (s : State) (u : PopUser) : (s.answerEmpty u).ctl = .idle := by cases u <;> simp [State.answerEmpty]
@[simp] theorem State.answerEmpty_cfgOut (s : State) (u : PopUser) : (s.answerEmpty u).cfgOut = s.cfgOut := by cases u <;> simp [State.answerEmpty]
@[simp] theorem State.answerEmpty_inputs (s : State) (u : PopUser) : (s.answerEmpty u).inputs = s.inputs := by cases u <;> simp [State.answerEmpty]

/-! ## endClear -/

@[simp] theorem State.endClear_cfg (s : State) (u : ClearUser) : (s.endClear u).cfg = s.cfg := by
  cases u <;> simp [State.endClear]
@[simp] theorem State.endClear_buf (s : State) (u : ClearUser) : (s.endClear u).buf = s.buf := by
  cases u <;> simp [State.endClear]
@[simp] theorem State.endClear_head (s : State) (u : ClearUser) : (s.endClear u).head = s.head := by
  cases u <;> simp [State.endClear]
@[simp] theorem State.endClear_tail (s : State) (u : ClearUser) : (s.endClear u).tail = s.tail := by
  cases u <;> simp [State.endClear]
@[simp] theorem State.endClear_flags (s : State) (u : ClearUser) : (s.endClear u).flags = s.flags := by
  cases u <;> simp [State.endClear]
@[simp] theorem State.endClear_cache (s : State) (u : ClearUser) : (s.endClear u).cache = s.cache := by
  cases u <;> simp [State.endClear]
@[simp] theorem State.endClear_ctl (s : State) (u : ClearUser) : (s.endClear u).ctl = .idle := by cases u <;> rfl
@[simp] theorem State.endClear_cfgOut (s : State) (u : ClearUser) : (s.endClear u).cfgOut = s.cfgOut := by
  cases u <;> simp [State.endClear]
@[simp] theorem State.endClear_inputs (s : State) (u : ClearUser) : (s.endClear u).inputs = s.inputs := by
  cases u <;> simp [State.endClear]

/-! ## The end of a looked-up word -/

@[simp] theorem State.emit_cfg (s : State) (c : Byte) : (s.emit c).cfg = s.cfg := by
  unfold State.emit; split <;> simp
@[simp] theorem State.emit_buf (s : State) (c : Byte) : (s.emit c).buf = s.buf := by
  unfold State.emit; split <;> simp
@[simp] theorem State.emit_head (s : State) (c : Byte) : (s.emit c).head = s.head := by
  unfold State.emit; split <;> simp
@[simp] theorem State.emit_tail (s : State) (c : Byte) : (s.emit c).tail = s.tail := by
  unfold State.emit; split <;> simp
@[simp] theorem State.emit_cfgOut (s : State) (c : Byte) : (s.emit c).cfgOut = s.cfgOut := by
  unfold State.emit; split <;> simp
@[simp] theorem State.emit_inputs (s : State) (c : Byte) : (s.emit c).inputs = s.inputs := by
  unfold State.emit; split <;> simp
@[simp] theorem State.resolved_cfg (s : State) (c : Byte) : (s.resolved c).cfg = s.cfg := by
  simp [State.resolved]
@[simp] theorem State.resolved_buf (s : State) (c : Byte) : (s.resolved c).buf = s.buf := by
  simp [State.resolved]
@[simp] theorem State.resolved_head (s : State) (c : Byte) : (s.resolved c).head = s.head := by
  simp [State.resolved]
@[simp] theorem State.resolved_tail (s : State) (c : Byte) : (s.resolved c).tail = s.tail := by
  simp [State.resolved]
@[simp] theorem State.resolved_cfgOut (s : State) (c : Byte) : (s.resolved c).cfgOut = s.cfgOut := by
  simp [State.resolved]
@[simp] theorem State.resolved_inputs (s : State) (c : Byte) : (s.resolved c).inputs = s.inputs := by
  simp [State.resolved]

@[simp] theorem State.emit_flags (s : State) (c : Byte) : (s.emit c).flags = s.flags := by
  unfold State.emit; split <;> simp
@[simp] theorem State.resolved_flags (s : State) (c : Byte) :
    (s.resolved c).flags = s.flags.clearPrefix := by
  simp [State.resolved]

end Sys2Proof.Machine
end

