-- ==== Sys2Proof/Laws/Ring.lean ====
section
/-! SUPPORT. The ring: index arithmetic, the occupancy, and what each operation does to the list of
unread bytes. -/

namespace Sys2Proof.Machine

/-! ## The invariant taken apart -/

theorem Config.two_le_N {cfg : Config} (h : cfg.wf = true) : 2 ≤ cfg.N := by
  simp only [Config.wf, Bool.and_eq_true, decide_eq_true_eq] at h
  exact h.1.1

/-- The parts of the invariant. -/
theorem State.inv_iff (s : State) : s.inv = true ↔
    s.cfg.wf = true ∧ s.head < s.cfg.N ∧ s.tail < s.cfg.N ∧ s.buf.wf = true ∧
    s.buf.below s.cfg.N = true ∧ (s.cacheValid = true → s.cache ≠ 0) ∧
    s.rsp ≠ .char (.char 0) ∧ s.ctlInv = true := by
  simp only [State.inv, Bool.and_eq_true, decide_eq_true_eq, Bool.or_eq_true, bne_iff_ne,
    Bool.not_eq_true', and_assoc]
  cases s.cacheValid <;> simp

/-- Both indices are slots of a ring of at least two. -/
structure State.Ring (s : State) : Prop where
  two_le : 2 ≤ s.cfg.N
  head_lt : s.head < s.cfg.N
  tail_lt : s.tail < s.cfg.N

theorem State.ring_of_inv {s : State} (h : s.inv = true) : s.Ring := by
  obtain ⟨hc, hh, ht, -⟩ := s.inv_iff.1 h
  exact ⟨Config.two_le_N hc, hh, ht⟩

/-! ## Indices -/

theorem State.succIndex_of_lt {s : State} {i : Nat} (h : i < s.cfg.N) :
    s.succIndex i = if i + 1 = s.cfg.N then 0 else i + 1 := by
  unfold State.succIndex
  split
  · rename_i h'
    rw [h', Nat.mod_self]
  · exact Nat.mod_eq_of_lt (by omega)

theorem State.succIndex_lt {s : State} (h : 2 ≤ s.cfg.N) (i : Nat) : s.succIndex i < s.cfg.N :=
  Nat.mod_lt _ (by omega)

theorem State.nextHead_lt {s : State} (h : 2 ≤ s.cfg.N) : s.nextHead < s.cfg.N :=
  State.succIndex_lt h _

theorem State.nextTail_lt {s : State} (h : 2 ≤ s.cfg.N) : s.nextTail < s.cfg.N :=
  State.succIndex_lt h _

/-- Adding below twice the modulus. -/
theorem add_mod_cases {i k n : Nat} (hi : i < n) (hk : k ≤ n) :
    (i + k) % n = if i + k < n then i + k else i + k - n := by
  split
  · exact Nat.mod_eq_of_lt ‹_›
  · rw [Nat.mod_eq_sub_mod (by omega), Nat.mod_eq_of_lt (by omega)]

/-- The occupancy without the modulus. -/
theorem State.occupancy_eq {s : State} (r : s.Ring) :
    s.occupancy = if s.tail ≤ s.head then s.head - s.tail else s.head + s.cfg.N - s.tail := by
  obtain ⟨h2, hh, ht⟩ := r
  unfold State.occupancy
  split
  · rw [Nat.mod_eq_sub_mod (by omega), Nat.mod_eq_of_lt (by omega)]
    omega
  · exact Nat.mod_eq_of_lt (by omega)

theorem State.occupancy_lt {s : State} (r : s.Ring) : s.occupancy < s.cfg.N :=
  Nat.mod_lt _ (by have := r.two_le; omega)

theorem State.occupancy_eq_zero_iff {s : State} (r : s.Ring) : s.occupancy = 0 ↔ s.head = s.tail := by
  rw [State.occupancy_eq r]
  obtain ⟨h2, hh, ht⟩ := r
  split <;> omega

theorem State.full_iff {s : State} (r : s.Ring) : s.nextHead = s.tail ↔ s.occupancy = s.cfg.N - 1 := by
  rw [State.occupancy_eq r]
  obtain ⟨h2, hh, ht⟩ := r
  rw [State.nextHead, State.succIndex_of_lt hh]
  split <;> split <;> omega

/-! ## The unread bytes -/

@[simp] theorem State.length_unread (s : State) : s.unread.length = s.occupancy := by
  simp [State.unread]

/-- The unread bytes depend on the storage, the two indices and `N` alone. -/
theorem State.unread_congr {s t : State} (hc : t.cfg = s.cfg) (hb : t.buf = s.buf)
    (hh : t.head = s.head) (ht : t.tail = s.tail) : t.unread = s.unread := by
  simp [State.unread, State.occupancy, hc, hb, hh, ht]

theorem State.unread_eq_nil_iff {s : State} (r : s.Ring) : s.unread = [] ↔ s.head = s.tail := by
  rw [← State.occupancy_eq_zero_iff r, ← State.length_unread, List.length_eq_zero_iff]

theorem State.unread_of_empty {s : State} (h : s.head = s.tail) : s.unread = [] := by
  simp [State.unread, State.occupancy, h]

/-- The `i`-th unread byte. -/
theorem State.unread_getElem? (s : State) (i : Nat) :
    s.unread[i]? =
      if i < s.occupancy then some (s.buf.read ((s.tail + 1 + i) % s.cfg.N)) else none := by
  unfold State.unread
  split
  · rename_i h
    simp [List.getElem?_map, List.getElem?_range h]
  · rename_i h
    simp only [List.getElem?_map, Option.map_eq_none_iff]
    exact List.getElem?_eq_none (by simpa using h)

/-- A PUSH with room appends its byte. -/
theorem State.unread_pushByte_room {s : State} (r : s.Ring) (hwf : s.buf.wf = true) (b : Byte)
    (h : s.nextHead ≠ s.tail) : (s.pushByte b).unread = s.unread ++ [b] := by
  have hlt := State.occupancy_lt r
  have hfull := (State.full_iff r).not.1 h
  have hocc : (s.pushByte b).occupancy = s.occupancy + 1 := by
    have r' : (s.pushByte b).Ring :=
      ⟨by simpa using r.two_le,
       by rw [State.pushByte_head, if_neg h]; simpa using State.nextHead_lt r.two_le,
       by simpa using r.tail_lt⟩
    rw [State.occupancy_eq r', State.occupancy_eq r]
    obtain ⟨h2, hh, ht⟩ := r
    simp only [State.pushByte_head, if_neg h, State.pushByte_tail, State.pushByte_cfg]
    rw [State.nextHead, State.succIndex_of_lt hh] at h ⊢
    split at h <;> rename_i hc <;> simp only [hc, if_true, if_false] <;> (split <;> split <;> omega)
  apply List.ext_getElem?
  intro i
  rw [State.unread_getElem?, hocc]
  simp only [State.pushByte_buf, if_neg h, State.pushByte_tail, State.pushByte_cfg]
  have hslot : ∀ j, j ≤ s.occupancy → ((s.tail + 1 + j) % s.cfg.N = s.nextHead ↔ j = s.occupancy) := by
    intro j hj
    have hj' := hj
    rw [State.occupancy_eq r] at hj' hlt ⊢
    obtain ⟨h2, hh, ht⟩ := r
    rw [show s.tail + 1 + j = s.tail + (j + 1) by omega, add_mod_cases ht (by omega),
      State.nextHead, State.succIndex_of_lt hh]
    split <;> split <;> split <;> omega
  rcases Nat.lt_trichotomy i s.occupancy with hi | hi | hi
  · rw [if_pos (by omega), List.getElem?_append_left (by simpa using hi), State.unread_getElem?, if_pos hi,
      Memory.read_write hwf, if_neg]
    rw [hslot i (by omega)]
    omega
  · subst hi
    rw [if_pos (by omega), Memory.read_write hwf, if_pos ((hslot _ (by omega)).2 rfl),
      List.getElem?_append_right (by simp)]
    simp
  · rw [if_neg (by omega), List.getElem?_eq_none (by simp; omega)]

theorem State.unread_pushByte_full {s : State} (b : Byte) (h : s.nextHead = s.tail) :
    (s.pushByte b).unread = s.unread := by
  unfold State.pushByte
  rw [if_pos h]

/-- What a PUSH does to the unread bytes. -/
theorem State.unread_pushByte {s : State} (r : s.Ring) (hwf : s.buf.wf = true) (b : Byte) :
    (s.pushByte b).unread =
      if s.unread.length < s.cfg.N - 1 then s.unread ++ [b] else s.unread := by
  have hlt := State.occupancy_lt r
  by_cases h : s.nextHead = s.tail
  · have := (State.full_iff r).1 h
    rw [State.unread_pushByte_full b h, if_neg]
    rw [State.length_unread]
    omega
  · have := (State.full_iff r).not.1 h
    rw [State.unread_pushByte_room r hwf b h, if_pos]
    rw [State.length_unread]
    omega

/-- Taking `TAIL` forward to `h` drops the bytes up to `h`. -/
theorem State.unread_setTail {s : State} (r : s.Ring) {h : Nat} (hh : h < s.cfg.N)
    (hle : (h + s.cfg.N - s.tail) % s.cfg.N ≤ s.occupancy) :
    (s.setTail h).unread = s.unread.drop ((h + s.cfg.N - s.tail) % s.cfg.N) := by
  have hlt := State.occupancy_lt r
  have hk : (h + s.cfg.N - s.tail) % s.cfg.N =
      if s.tail ≤ h then h - s.tail else h + s.cfg.N - s.tail := by
    have := r.tail_lt
    split
    · rw [Nat.mod_eq_sub_mod (by omega), Nat.mod_eq_of_lt (by omega)]
      omega
    · exact Nat.mod_eq_of_lt (by omega)
  generalize hkk : (h + s.cfg.N - s.tail) % s.cfg.N = k at hk hle
  have r' : (s.setTail h).Ring := ⟨by simpa using r.two_le, by simpa using r.head_lt, by simpa using hh⟩
  have hocc : (s.setTail h).occupancy = s.occupancy - k := by
    rw [State.occupancy_eq r] at hle hlt ⊢
    rw [State.occupancy_eq r']
    obtain ⟨h2, hhd, ht⟩ := r
    simp only [State.setTail_head, State.setTail_tail, State.setTail_cfg]
    by_cases h1 : s.tail ≤ s.head <;> by_cases h3 : s.tail ≤ h <;> by_cases h4 : h ≤ s.head <;>
      simp only [h1, h3, h4, if_true, if_false] at hk hle ⊢ <;> omega
  have htail : (s.tail + k) % s.cfg.N = h := by
    have ht := r.tail_lt
    rw [hk]
    split
    · rw [show s.tail + (h - s.tail) = h by omega, Nat.mod_eq_of_lt hh]
    · rw [show s.tail + (h + s.cfg.N - s.tail) = h + s.cfg.N by omega, Nat.add_mod_right,
        Nat.mod_eq_of_lt hh]
  apply List.ext_getElem?
  intro i
  rw [State.unread_getElem?, hocc, List.getElem?_drop, State.unread_getElem?]
  simp only [State.setTail_buf, State.setTail_tail, State.setTail_cfg]
  have hslot : (h + 1 + i) % s.cfg.N = (s.tail + 1 + (k + i)) % s.cfg.N := by
    rw [show s.tail + 1 + (k + i) = (s.tail + k) + (1 + i) by omega,
      ← Nat.mod_add_mod (s.tail + k), htail, show h + (1 + i) = h + 1 + i by omega]
  rw [hslot]
  by_cases hi : i < s.occupancy - k
  · rw [if_pos hi, if_pos (by omega)]
  · rw [if_neg hi, if_neg (by omega)]

/-- POP takes the oldest unread byte. -/
theorem State.unread_eq_cons {s : State} (r : s.Ring) (h : s.head ≠ s.tail) :
    s.unread = s.peekByte :: s.advanceTail.unread := by
  have hpos : 0 < s.occupancy := by
    have := (State.occupancy_eq_zero_iff r).not.2 h
    omega
  have h2 := r.two_le
  have ht := r.tail_lt
  have hk : (s.nextTail + s.cfg.N - s.tail) % s.cfg.N = 1 := by
    rw [State.nextTail, State.succIndex_of_lt ht]
    split
    · rw [show 0 + s.cfg.N - s.tail = 1 by omega, Nat.mod_eq_of_lt (by omega)]
    · rw [show s.tail + 1 + s.cfg.N - s.tail = 1 + s.cfg.N by omega, Nat.add_mod_right,
        Nat.mod_eq_of_lt (by omega)]
  have hdrop := State.unread_setTail r (h := s.nextTail) (State.succIndex_lt h2 _) (by omega)
  rw [hk] at hdrop
  have hadv : s.advanceTail.unread = s.unread.drop 1 := hdrop
  rw [hadv]
  have h0 : s.unread[0]? = some s.peekByte := by
    rw [State.unread_getElem?, if_pos hpos]
    rfl
  cases hu : s.unread with
  | nil => rw [hu] at h0; cases h0
  | cons b rest => rw [hu] at h0; simpa using h0

theorem State.ring_advanceTail {s : State} (r : s.Ring) : s.advanceTail.Ring :=
  ⟨by simpa using r.two_le, by simpa using r.head_lt, by simpa using State.nextTail_lt r.two_le⟩

theorem State.ring_pushByte {s : State} (r : s.Ring) (b : Byte) : (s.pushByte b).Ring := by
  refine ⟨by simpa using r.two_le, ?_, by simpa using r.tail_lt⟩
  rw [State.pushByte_head]
  split
  · simpa using r.head_lt
  · simpa using State.nextHead_lt r.two_le

end Sys2Proof.Machine
end

