-- ==== Sys2Proof/Laws/Words.lean ====
section
/-! SUPPORT. What a scan-code word can do, said once: it writes the flags and then continues the loop
or returns a character; and what the decoder's loop leaves unchanged. -/

namespace Sys2Proof.Machine

/-- The end of a looked-up word: zero continues, anything else is returned. -/
theorem State.emit_zero (s : State) : s.emit 0#8 = s.continueLoop := rfl

theorem State.emit_of_ne {s : State} {c : Byte} (h : c ≠ 0#8) :
    s.emit c = s.answerChar c s.ctl.decodeUser := by
  unfold State.emit
  rw [if_neg h]

/-- The class of an extended key, one lemma for the twelve. -/
theorem exec_ofKey (k : ExtKey) (s : State) : exec (Instr.ofKey k) s = .next (s.extendedKey k) := by
  cases k <;> rfl

/-- Every scan-code word's meaning writes the flags and emits a byte, 0 for the classes that
continue. -/
theorem exec_scan_eq {i : Instr} {c : Context} (h : i.onPort (.scan c) = true) (s : State) :
    ∃ f b, exec i s = .next (State.emit { s with flags := f } b) := by
  cases i
  case scBrk => exact ⟨_, 0#8, rfl⟩
  case scExt => exact ⟨_, 0#8, rfl⟩
  case scRel w => exact ⟨_, 0#8, rfl⟩
  case scLsh => exact ⟨_, 0#8, rfl⟩
  case scRsh => exact ⟨_, 0#8, rfl⟩
  all_goals first
    | exact ⟨_, _, rfl⟩
    | (simp [Instr.onPort, Port.isProducer, Port.isConsumer] at h)

/-- The decoder runs a word as the instruction it reads from it. -/
theorem runWord_eq_exec (w : Byte) (s : State) :
    runWord w s = exec (decodeWord s.cfg s.context w) s := by
  have h := decodeWord_onPort s.cfg s.context w
  unfold runWord
  generalize decodeWord s.cfg s.context w = i at h
  cases i <;> first | rfl | (simp [Instr.onPort, Port.isProducer, Port.isConsumer] at h)

/-- A word run by the decoder, said once. -/
theorem runWord_eq (w : Byte) (s : State) :
    ∃ f b, runWord w s = .next (State.emit { s with flags := f } b) := by
  rw [runWord_eq_exec]
  exact exec_scan_eq (decodeWord_onPort ..) s

/-- After an emitted byte the operation has ended exactly when the byte is not 0. -/
theorem State.emit_ctl (s : State) (c : Byte) :
    (s.emit c).ctl = if c = 0#8 then .popHead (.word s.ctl.decodeUser) else .idle := by
  unfold State.emit
  split <;> simp

/-- The decoder's loop always answers a next state, and writes neither the parameters nor the
storage nor `HEAD` nor the requests nor the trace. -/
theorem decodeLoop_frame (n : Nat) (s : State) :
    ∃ t, decodeLoop n s = .next t ∧ t.cfg = s.cfg ∧ t.buf = s.buf ∧ t.head = s.head ∧
      t.cfgOut = s.cfgOut ∧ t.inputs = s.inputs := by
  induction n generalizing s with
  | zero => exact ⟨s, rfl, rfl, rfl, rfl, rfl, rfl⟩
  | succ n ih =>
    unfold decodeLoop
    split
    · exact ⟨_, rfl, by simp, by simp, by simp, by simp, by simp⟩
    · obtain ⟨f, b, h⟩ := runWord_eq s.peekByte s.advanceTail
      rw [h]
      simp only
      split
      · exact ⟨_, rfl, by simp, by simp, by simp, by simp, by simp⟩
      · obtain ⟨t, ht, h1, h2, h3, h4, h5⟩ := ih (State.emit { s.advanceTail with flags := f } b)
        exact ⟨t, ht, by simpa using h1, by simpa using h2, by simpa using h3, by simpa using h4,
          by simpa using h5⟩

end Sys2Proof.Machine
end

