-- ==== Sys2Proof/Laws/Step.lean ====
section
/-! SUPPORT. A step by the next trace line, and a micro-step by the place it stands at. -/

namespace Sys2Proof.Machine

theorem step_of_nil {s : State} (h : s.inputs = []) : step s = s.microStep := by
  unfold step
  rw [h]

theorem step_of_rx {s : State} {b : Byte} {rest : List Input} (h : s.inputs = .rx b :: rest) :
    step s = execPush b { s with inputs := rest } := by
  unfold step
  rw [h]
  rfl

theorem step_of_cmd {s : State} {op : Cmd} {rest : List Input} (h : s.inputs = .cmd op :: rest) :
    step s = exec (decodeCmd op) { s with inputs := rest } := by
  unfold step
  rw [h]

theorem step_of_micro {s : State} {op : Cmd} {rest : List Input} (h : s.inputs = .micro op :: rest) :
    step s = State.microLine { s with inputs := rest } op := by
  unfold step
  rw [h]

theorem State.whenIdle_of_idle {s : State} (h : s.ctl = .idle) (run : Out) : s.whenIdle run = run := by
  unfold State.whenIdle
  rw [if_pos h]

theorem State.whenIdle_of_busy {s : State} (h : s.ctl ≠ .idle) (run : Out) :
    s.whenIdle run = .refused .overlappingConsumer := by
  unfold State.whenIdle
  rw [if_neg h]

/-- The select codes, one by one. -/
theorem cmd_cases (op : Cmd) : op = 0#3 ∨ op = 1#3 ∨ op = 2#3 ∨ op = 3#3 ∨ op = 4#3 ∨ op = 5#3 ∨
    op = 6#3 ∨ op = 7#3 := by
  revert op
  decide

theorem DecodeUser.code_ne_seven (u : DecodeUser) : u.code ≠ 7#3 := by
  cases u <;> decide

/-- A micro-step always answers a next state. -/
theorem State.microStep_next (s : State) : ∃ t, s.microStep = .next t := by
  unfold State.microStep
  split
  all_goals try exact ⟨_, rfl⟩
  rename_i u b _
  cases u with
  | direct => exact ⟨_, rfl⟩
  | word u =>
    obtain ⟨f, c, h⟩ := runWord_eq b s.advanceTail
    exact ⟨_, h⟩

/-- A line of micro-step is refused only when it is reserved or overlaps. -/
theorem State.microLine_cases (s : State) (op : Cmd) :
    (op = 7#3 ∧ s.microLine op = .refused .reservedCommand) ∨
    (op ≠ 7#3 ∧ s.ctl = .idle ∧ s.microLine op = (s.start op).microStep) ∨
    (op ≠ 7#3 ∧ s.ctl ≠ .idle ∧ s.ctl.code = some op ∧ s.microLine op = s.microStep) ∨
    (op ≠ 7#3 ∧ s.ctl ≠ .idle ∧ s.ctl.code ≠ some op ∧
      s.microLine op = .refused .overlappingConsumer) := by
  unfold State.microLine
  by_cases h7 : op = 7#3
  · exact .inl ⟨h7, if_pos h7⟩
  by_cases hi : s.ctl = .idle
  · exact .inr (.inl ⟨h7, hi, by rw [if_neg h7, if_pos hi]⟩)
  by_cases hc : s.ctl.code = some op
  · exact .inr (.inr (.inl ⟨h7, hi, hc, by rw [if_neg h7, if_neg hi, if_pos hc]⟩))
  · exact .inr (.inr (.inr ⟨h7, hi, hc, by rw [if_neg h7, if_neg hi, if_neg hc]⟩))

end Sys2Proof.Machine
end

