-- ==== Sys2Proof/Laws/Runs.lean ====
section
/-! SUPPORT. What issuing an operation and a micro-step leave unchanged, that a step takes exactly its
own trace line, and runs over a list of lines taken line by line. -/

namespace Sys2Proof.Machine

/-! ## Issuing an operation -/

@[simp] theorem State.start_cfg (s : State) (op : Cmd) : (s.start op).cfg = s.cfg := by
  unfold State.start
  repeat' split
  all_goals rfl
@[simp] theorem State.start_buf (s : State) (op : Cmd) : (s.start op).buf = s.buf := by
  unfold State.start
  repeat' split
  all_goals rfl
@[simp] theorem State.start_head (s : State) (op : Cmd) : (s.start op).head = s.head := by
  unfold State.start
  repeat' split
  all_goals rfl
@[simp] theorem State.start_tail (s : State) (op : Cmd) : (s.start op).tail = s.tail := by
  unfold State.start
  repeat' split
  all_goals rfl
@[simp] theorem State.start_flags (s : State) (op : Cmd) : (s.start op).flags = s.flags := by
  unfold State.start
  repeat' split
  all_goals rfl
@[simp] theorem State.start_cache (s : State) (op : Cmd) : (s.start op).cache = s.cache := by
  unfold State.start
  repeat' split
  all_goals rfl
@[simp] theorem State.start_cfgOut (s : State) (op : Cmd) : (s.start op).cfgOut = s.cfgOut := by
  unfold State.start
  repeat' split
  all_goals rfl
@[simp] theorem State.start_inputs (s : State) (op : Cmd) : (s.start op).inputs = s.inputs := by
  unfold State.start
  repeat' split
  all_goals rfl

/-! ## A micro-step -/

/-- A micro-step writes no parameter and no slot, writes `HEAD` only as BEGIN.2, and takes no line. -/
theorem State.microStep_frame {s t : State} (h : s.microStep = .next t) :
    t.cfg = s.cfg ∧ t.buf = s.buf ∧ t.inputs = s.inputs ∧ (s.ctl ≠ .beginHead → t.head = s.head) := by
  unfold State.microStep at h
  split at h
  case h_4 u b _ =>
    cases u with
    | direct => cases h; exact ⟨rfl, rfl, rfl, fun _ => rfl⟩
    | word u =>
      obtain ⟨f, c, e⟩ := runWord_eq b s.advanceTail
      simp only [State.popped, e, Host.Outcome.next.injEq] at h
      subst h
      simp
  case h_2 u _ =>
    cases h
    split <;> simp
  case h_6 u i _ => cases h; simp
  case h_8 hc => cases h; exact ⟨rfl, rfl, rfl, fun hn => absurd hc hn⟩
  all_goals (cases h; exact ⟨rfl, rfl, rfl, fun _ => rfl⟩)

/-! ## The line a step takes -/

theorem exec_cmd_inputs {s t : State} (op : Cmd) (h : exec (decodeCmd op) s = .next t) :
    t.inputs = s.inputs := by
  have hd : ∀ u, s.runDecoder u = .next t → t.inputs = s.inputs := by
    intro u hu
    obtain ⟨t', ht', -, -, -, -, hi⟩ := decodeLoop_frame s.cfg.N { s with ctl := .popHead (.word u) }
    rw [State.runDecoder, ht'] at hu
    cases hu
    exact hi
  revert h
  rcases cmd_cases op with e | e | e | e | e | e | e | e <;> subst e <;> simp only [decodeCmd] <;> simp <;>
    simp only [exec, execPop, execClear, execDecode, execAvailable, execRead, execFlush, execBegin,
      execRsvd7, State.whenIdle] <;> intro h
  case inr.inr.inr.inr.inr.inr.inr => cases h
  all_goals
    split at h
    case isFalse => cases h
    case isTrue =>
      first
      | exact hd _ h
      | (split at h
         · cases h; rfl
         · exact hd _ h)
      | (cases h; split <;> rfl)
      | (cases h; rfl)
      | (cases h; simp)

/-- A step that has a line takes it, and only it. -/
theorem step_inputs {s t : State} {l : Input} {rest : List Input} (hl : s.inputs = l :: rest)
    (h : step s = .next t) : t.inputs = rest := by
  cases l with
  | rx b =>
    rw [step_of_rx hl] at h
    unfold execPush at h
    cases h
    simp
  | cmd op =>
    rw [step_of_cmd hl] at h
    exact exec_cmd_inputs op h
  | micro op =>
    rw [step_of_micro hl] at h
    rcases State.microLine_cases { s with inputs := rest } op with
      ⟨-, e⟩ | ⟨-, -, e⟩ | ⟨-, -, -, e⟩ | ⟨-, -, -, e⟩ <;> rw [e] at h
    · cases h
    · simpa using (State.microStep_frame h).2.2.1
    · exact (State.microStep_frame h).2.2.1
    · cases h

/-! ## Runs -/

theorem State.runLines_nil (s : State) : s.runLines [] = .next { s with inputs := [] } := rfl

/-- A run does not depend on the lines the state holds. -/
theorem State.runLines_inputs (s : State) (held lines : List Input) :
    ({ s with inputs := held } : State).runLines lines = s.runLines lines := rfl

/-- A run takes its first line, then the others. -/
theorem State.runLines_cons (s : State) (l : Input) (ls : List Input) :
    s.runLines (l :: ls) =
      match step { s with inputs := l :: ls } with
      | .next t => t.runLines ls
      | .fault f => .fault f
      | .refused r => .refused r := by
  unfold State.runLines
  simp only [List.length_cons, Host.Core.run]
  have e : Sys2Proof.core.step = step := rfl
  rw [e]
  cases h : step { s with inputs := l :: ls } with
  | next t =>
    have hi := step_inputs (s := { s with inputs := l :: ls }) rfl h
    subst hi
    rfl
  | fault f => rfl
  | refused r => rfl

/-- A PUSH as the first line of a run. -/
theorem State.runLines_rx (s : State) (b : Byte) (ls : List Input) :
    s.runLines (.rx b :: ls) = (s.pushByte b).runLines ls := by
  rw [State.runLines_cons, step_of_rx rfl]
  simp only [execPush]
  unfold State.runLines State.pushByte
  by_cases h : (s.head + 1) % s.cfg.N = s.tail <;>
    simp only [State.nextHead, State.succIndex, h, if_true, if_false] <;> rfl

end Sys2Proof.Machine
end

