-- ==== Sys2Proof/Tests/Slice0.lean ====
section
/-! SUPPORT. The model's own tests: the refusals of WellFormed, the decoding of a word of every
constructor, one-step tests from the vectors of spec/95_test_vectors.md, the host's one-word entry,
and for every obligation with hypotheses a state and operands that meet them. -/

namespace Sys2Proof.Tests

open Sys2Proof Sys2Proof.Machine

/-! ## Helpers -/

/-- The next state of an outcome, if it is one. -/
def after (o : Out) : Option State :=
  match o with
  | .next t => some t
  | .fault _ => none
  | .refused _ => none

/-- The refusal of an outcome, if it is one. -/
def refusal (o : Out) : Option Refusal :=
  match o with
  | .next _ => none
  | .fault _ => none
  | .refused r => some r

/-- Flags written as the vectors write `STATE`: BREAK, MODIFIER, SHIFT_LEFT, SHIFT_RIGHT. -/
def flags (b m l r : Nat) : Flags := ⟨b == 1, m == 1, l == 1, r == 1⟩

/-- Cold reset with `n` slots. -/
def slots (n : Nat) : State := { State.reset with cfg := { Config.default with N := n } }

/-- Cold reset but for the flags and the unread bytes in the slots from 1 on. -/
def holding (f : Flags) (cells : Memory) (n : Nat) : State :=
  { State.reset with flags := f, buf := cells, head := n }

/-- One whole consumer operation. -/
def command (s : State) (op : Cmd) : Out := step { s with inputs := [.cmd op] }

/-- One receive event. -/
def receive (s : State) (b : Byte) : Out := step { s with inputs := [.rx b] }

/-- One micro-step line. -/
def micro (s : State) (op : Cmd) : Out := step { s with inputs := [.micro op] }

/-- What a ring test looks at: the answer and the two indices. -/
def ring (o : Out) : Option (Response × Nat × Nat) := (after o).map (fun t => (t.rsp, t.head, t.tail))

/-- What a decoder test looks at: the answer, `TAIL` and the flags. -/
def decoded (o : Out) : Option (Response × Nat × Flags) :=
  (after o).map (fun t => (t.rsp, t.tail, t.flags))

/-- What a facade test looks at: the answer, `TAIL`, and the cache. -/
def facade (o : Out) : Option (Response × Nat × Bool × Byte) :=
  (after o).map (fun t => (t.rsp, t.tail, t.cacheValid, t.cache))

/-! ## Ill-formed terms are refused -/

theorem test_wf_rel_prefix : Instr.wf Config.default (.scRel 0xF0#8) = false := by decide
theorem test_wf_xnone_listed : Instr.wf Config.default (.scXnone 0x75#8) = false := by decide
theorem test_wf_xnone_shift : Instr.wf Config.default (.scXnone 0x12#8) = false := by decide
theorem test_wf_high_low : Instr.wf Config.default (.scHigh 0x7F#8) = false := by decide
theorem test_wf_high_prefix : Instr.wf Config.default (.scHigh 0xE0#8) = false := by decide
theorem test_wf_keys_high : Instr.wf Config.default (.scKeys 0x80#8) = false := by decide
theorem test_wf_keys_shift : Instr.wf Config.default (.scKeys 0x59#8) = false := by decide
theorem test_wf_keyu_high : Instr.wf Config.default (.scKeyu 0x80#8) = false := by decide
theorem test_wf_keyu_shift : Instr.wf Config.default (.scKeyu 0x12#8) = false := by decide

/-- An extended key whose code is the break prefix is never reached. -/
theorem test_wf_key_unreachable :
    Instr.wf { Config.default with extCode := { defaultExtCode with home := 0xF0#8 } } .scXHome = false := by
  decide

/-- An extended key without an output is never reached. -/
theorem test_wf_key_without_output :
    Instr.wf { Config.default with extOut := { defaultExtOut with up := 0#8 } } .scXUp = false := by
  decide

set_option maxRecDepth 100000 in
theorem test_config_wf : Config.default.wf = true := by decide
theorem test_config_one_slot : Config.wf { Config.default with N := 1 } = false := by decide
theorem test_config_short_table : Config.wf { Config.default with tU := [0#8] } = false := by decide

set_option maxRecDepth 100000 in
/-- Two keys with one code. -/
theorem test_config_double_code :
    Config.extWf { Config.default with extCode := { defaultExtCode with home := 0x70#8 } } = false := by
  decide

set_option maxRecDepth 100000 in
/-- A sentinel below 128. -/
theorem test_config_low_sentinel :
    Config.extWf { Config.default with extOut := { defaultExtOut with insert := 0x7F#8 } } = false := by
  decide

set_option maxRecDepth 100000 in
/-- R167: with the sentinel of Up in a table its byte no longer tells the key. -/
theorem test_config_mixed_bytes :
    Config.keepsApart { Config.default with tS := [0x86#8] } = false := by decide

set_option maxRecDepth 100000 in
/-- R167, `EXT` taken as a table too (log entry 29): keypad-Enter with the sentinel of Insert. -/
theorem test_config_keypad_sentinel :
    Config.keepsApart { Config.default with extOut := { defaultExtOut with kpEnter := 0x80#8 } } = false := by
  decide

/-! ## Every constructor's word (30_encoding.md R52, R57, R62, R63, R67) -/

theorem test_decode_push : decode Config.default .producer 0b10101010#8 = .ok (.push 0xAA#8) := by rfl
theorem test_decode_pop : decode Config.default .consumer 0b000#8 = .ok .pop := by rfl
theorem test_decode_clear : decode Config.default .consumer 0b001#8 = .ok .clear := by rfl
theorem test_decode_decode : decode Config.default .consumer 0b010#8 = .ok .decode := by rfl
theorem test_decode_available : decode Config.default .consumer 0b011#8 = .ok .available := by rfl
theorem test_decode_read : decode Config.default .consumer 0b100#8 = .ok .read := by rfl
theorem test_decode_flush : decode Config.default .consumer 0b101#8 = .ok .flush := by rfl
theorem test_decode_begin : decode Config.default .consumer 0b110#8 = .ok .beginOp := by rfl
theorem test_decode_rsvd7 : decode Config.default .consumer 0b111#8 = .ok .rsvd7 := by rfl
theorem test_decode_no_command : decode Config.default .consumer 8#8 = .error .notACommandCode := by rfl

theorem test_decode_brk : decode Config.default (.scan ⟨true, true, true⟩) 0b11110000#8 = .ok .scBrk := by rfl
theorem test_decode_ext : decode Config.default (.scan ⟨true, true, true⟩) 0b11100000#8 = .ok .scExt := by rfl
theorem test_decode_rel : decode Config.default (.scan ⟨true, true, true⟩) 0b01011001#8 = .ok (.scRel 0x59#8) := by rfl
theorem test_decode_lsh : decode Config.default (.scan ⟨false, true, true⟩) 0b00010010#8 = .ok .scLsh := by rfl
theorem test_decode_rsh : decode Config.default (.scan ⟨false, true, false⟩) 0b01011001#8 = .ok .scRsh := by rfl
theorem test_decode_insert : decode Config.default (.scan ⟨false, true, true⟩) 0b01110000#8 = .ok .scXInsert := by rfl
theorem test_decode_home : decode Config.default (.scan ⟨false, true, false⟩) 0b01101100#8 = .ok .scXHome := by rfl
theorem test_decode_pageup : decode Config.default (.scan ⟨false, true, true⟩) 0b01111101#8 = .ok .scXPageup := by rfl
theorem test_decode_delete : decode Config.default (.scan ⟨false, true, false⟩) 0b01110001#8 = .ok .scXDelete := by rfl
theorem test_decode_end : decode Config.default (.scan ⟨false, true, true⟩) 0b01101001#8 = .ok .scXEnd := by rfl
theorem test_decode_pagedown : decode Config.default (.scan ⟨false, true, false⟩) 0b01111010#8 = .ok .scXPagedown := by rfl
theorem test_decode_up : decode Config.default (.scan ⟨false, true, true⟩) 0b01110101#8 = .ok .scXUp := by rfl
theorem test_decode_left : decode Config.default (.scan ⟨false, true, false⟩) 0b01101011#8 = .ok .scXLeft := by rfl
theorem test_decode_down : decode Config.default (.scan ⟨false, true, true⟩) 0b01110010#8 = .ok .scXDown := by rfl
theorem test_decode_right : decode Config.default (.scan ⟨false, true, false⟩) 0b01110100#8 = .ok .scXRight := by rfl
theorem test_decode_kpslash : decode Config.default (.scan ⟨false, true, true⟩) 0b01001010#8 = .ok .scXKpslash := by rfl
theorem test_decode_kpenter : decode Config.default (.scan ⟨false, true, false⟩) 0b01011010#8 = .ok .scXKpenter := by rfl
theorem test_decode_xnone : decode Config.default (.scan ⟨false, true, true⟩) 0b10000011#8 = .ok (.scXnone 0x83#8) := by rfl
theorem test_decode_high : decode Config.default (.scan ⟨false, false, true⟩) 0b11100001#8 = .ok (.scHigh 0xE1#8) := by rfl
theorem test_decode_keys : decode Config.default (.scan ⟨false, false, true⟩) 0b00011100#8 = .ok (.scKeys 0x1C#8) := by rfl
theorem test_decode_keyu : decode Config.default (.scan ⟨false, false, false⟩) 0b00011100#8 = .ok (.scKeyu 0x1C#8) := by rfl

/-! ## Ring buffer (V-R1 to V-R12) -/

/-- V-R1: the first slot used is 1. -/
theorem test_push_first_slot :
    (after (receive State.reset 0xAA#8)).map (fun t => (t.buf, t.head, t.tail)) = some ([(1, 0xAA#8)], 1, 0) := by
  decide

/-- V-R10: full is `next == TAIL`, wherever the run lies. -/
theorem test_push_dropped_when_full :
    (after (receive { State.reset with head := 3, tail := 4 } 0x77#8)).map (fun t => (t.buf, t.head, t.tail)) =
      some ([], 3, 4) := by decide

/-- V-R5, its POP: the index wraps from 15 to 0. -/
theorem test_pop_wraps :
    ring (command { State.reset with buf := [(0, 0xA5#8)], head := 0, tail := 15 } 0#3) =
      some (.raw (.byte 0xA5#8), 0, 0) := by decide

/-- V-R9: a zero byte is data, not `Empty`. -/
theorem test_pop_zero_byte :
    ring (command { State.reset with head := 1 } 0#3) = some (.raw (.byte 0x00#8), 1, 1) := by decide

/-- V-R2. -/
theorem test_pop_empty : ring (command State.reset 0#3) = some (.raw .empty, 0, 0) := by decide

/-- V-R6. -/
theorem test_clear : ring (command { State.reset with head := 5, tail := 2 } 1#3) = some (.done, 5, 5) := by
  decide

/-- V-R11, its last PUSH: three slots, the index wraps from 2 to 0. -/
theorem test_push_three_slots :
    (after (receive { slots 3 with buf := [(1, 0x0A#8), (2, 0x0B#8)], head := 2, tail := 1 } 0x0C#8)).map
      (fun t => (t.buf, t.head, t.tail)) =
      some ([(0, 0x0C#8), (1, 0x0A#8), (2, 0x0B#8)], 0, 1) := by decide

/-- V-R12, its PUSH inside a POP: `TAIL` is still the old one, so the byte is dropped. -/
theorem test_push_inside_pop :
    (after (receive { slots 4 with head := 3, ctl := .popSlot .direct } 0x44#8)).map
      (fun t => (t.head, t.tail, t.ctl)) = some (3, 0, .popSlot .direct) := by decide

/-! ## Scan-code words, as DECODE runs them (section 3 of the vectors) -/

set_option maxRecDepth 100000

/-- V-D8: `None` with BREAK left pending. -/
theorem test_brk : decoded (command (holding Flags.clear [(1, 0xF0#8)] 1) 2#3) =
    some (.char .none, 1, flags 1 0 0 0) := by decide

/-- V-D4, its first word. -/
theorem test_ext : decoded (command (holding Flags.clear [(1, 0xE0#8)] 1) 2#3) =
    some (.char .none, 1, flags 0 1 0 0) := by decide

/-- V-D31: the release of right shift clears only its own latch. -/
theorem test_rel : decoded (command (holding (flags 1 0 1 1) [(1, 0x59#8)] 1) 2#3) =
    some (.char .none, 1, flags 0 0 1 0) := by decide

/-- V-D13: BREAK and MODIFIER pending, both cleared, no output. -/
theorem test_rel_extended : decoded (command (holding (flags 1 1 0 0) [(1, 0x75#8)] 1) 2#3) =
    some (.char .none, 1, flags 0 0 0 0) := by decide

/-- V-D2. -/
theorem test_lsh_keys : decoded (command (holding Flags.clear [(1, 0x12#8), (2, 0x1C#8)] 2) 2#3) =
    some (.char (.char 0x41#8), 2, flags 0 0 1 0) := by decide

/-- V-D20b: with `SHIFT_MAKE_CLEARS_PREFIX` false MODIFIER survives the shift press. -/
theorem test_lsh_keeps_modifier :
    decoded (command { holding Flags.clear [(1, 0xE0#8), (2, 0x12#8), (3, 0x70#8)] 3 with
      cfg := { Config.default with shiftMakeClearsPrefix := false } } 2#3) =
      some (.char (.char 0x80#8), 3, flags 0 0 1 0) := by decide

/-- V-D11, its first two words. -/
theorem test_rsh_keys : decoded (command (holding Flags.clear [(1, 0x59#8), (2, 0x1C#8)] 2) 2#3) =
    some (.char (.char 0x41#8), 2, flags 0 0 0 1) := by decide

/-- V-D17: MODIFIER goes before the shift latches. -/
theorem test_up : decoded (command (holding (flags 0 0 1 0) [(1, 0xE0#8), (2, 0x75#8)] 2) 2#3) =
    some (.char (.char 0x86#8), 2, flags 0 0 1 0) := by decide

/-- V-D29 and V-D30, one word each, and V-D24. -/
theorem test_insert : decoded (command (holding (flags 0 1 0 0) [(1, 0x70#8)] 1) 2#3) =
    some (.char (.char 0x80#8), 1, flags 0 0 0 0) := by decide
theorem test_home : decoded (command (holding (flags 0 1 0 0) [(1, 0x6C#8)] 1) 2#3) =
    some (.char (.char 0x81#8), 1, flags 0 0 0 0) := by decide
theorem test_pageup : decoded (command (holding (flags 0 1 0 0) [(1, 0x7D#8)] 1) 2#3) =
    some (.char (.char 0x82#8), 1, flags 0 0 0 0) := by decide
theorem test_delete : decoded (command (holding (flags 0 1 0 0) [(1, 0x71#8)] 1) 2#3) =
    some (.char (.char 0x83#8), 1, flags 0 0 0 0) := by decide
theorem test_end : decoded (command (holding (flags 0 1 0 0) [(1, 0x69#8)] 1) 2#3) =
    some (.char (.char 0x84#8), 1, flags 0 0 0 0) := by decide
theorem test_pagedown : decoded (command (holding (flags 0 1 0 0) [(1, 0x7A#8)] 1) 2#3) =
    some (.char (.char 0x85#8), 1, flags 0 0 0 0) := by decide
theorem test_left : decoded (command (holding (flags 0 1 0 0) [(1, 0x6B#8)] 1) 2#3) =
    some (.char (.char 0x87#8), 1, flags 0 0 0 0) := by decide
theorem test_down : decoded (command (holding (flags 0 1 0 0) [(1, 0x72#8)] 1) 2#3) =
    some (.char (.char 0x88#8), 1, flags 0 0 0 0) := by decide
theorem test_right : decoded (command (holding (flags 0 1 0 0) [(1, 0x74#8)] 1) 2#3) =
    some (.char (.char 0x89#8), 1, flags 0 0 0 0) := by decide
theorem test_kpslash : decoded (command (holding (flags 0 1 0 0) [(1, 0x4A#8)] 1) 2#3) =
    some (.char (.char 0x2F#8), 1, flags 0 0 0 0) := by decide
theorem test_kpenter : decoded (command (holding (flags 0 1 0 0) [(1, 0x5A#8)] 1) 2#3) =
    some (.char (.char 0x0D#8), 1, flags 0 0 0 0) := by decide

/-- V-D16: no fall-back to the lookup tables, the prefix is used up, the next word is plain. -/
theorem test_xnone :
    decoded (command (holding Flags.clear [(1, 0xE0#8), (2, 0x1C#8), (3, 0x1C#8)] 3) 2#3) =
      some (.char (.char 0x61#8), 3, flags 0 0 0 0) := by decide

/-- V-D32: a byte at or above 0x80 after 0xE0. -/
theorem test_xnone_high : decoded (command (holding (flags 0 1 0 0) [(1, 0x83#8)] 1) 2#3) =
    some (.char .none, 1, flags 0 0 0 0) := by decide

/-- V-D18. -/
theorem test_high : decoded (command (holding Flags.clear [(1, 0x83#8)] 1) 2#3) =
    some (.char .none, 1, flags 0 0 0 0) := by decide

/-- V-D25, its last word. -/
theorem test_keys : decoded (command (holding (flags 0 0 1 0) [(1, 0x4A#8)] 1) 2#3) =
    some (.char (.char 0x3F#8), 1, flags 0 0 1 0) := by decide

/-- V-D5: without the prefix 0x75 is an ordinary table index. -/
theorem test_keyu : decoded (command (holding Flags.clear [(1, 0x75#8)] 1) 2#3) =
    some (.char (.char 0x38#8), 1, flags 0 0 0 0) := by decide

/-- V-D7: the 00 entry of Caps Lock does not disturb the next word; one DECODE takes both. -/
theorem test_decode_skips_zero :
    decoded (command (holding Flags.clear [(1, 0x58#8), (2, 0x1C#8)] 2) 2#3) =
      some (.char (.char 0x61#8), 2, flags 0 0 0 0) := by decide

/-- V-D10, its first DECODE: the words behind the character stay unread. -/
theorem test_decode_stops_at_character :
    decoded (command (holding Flags.clear [(1, 0x1C#8), (2, 0xF0#8), (3, 0x1C#8)] 3) 2#3) =
      some (.char (.char 0x61#8), 1, flags 0 0 0 0) := by decide

/-! ## Facade (section 4 of the vectors, P2, P5) -/

/-- P2, line 10: AVAILABLE takes two words and keeps the character. -/
theorem test_available_fills_cache :
    facade (command (holding Flags.clear [(1, 0x12#8), (2, 0x33#8), (3, 0xF0#8)] 3) 3#3) =
      some (.bool true, 2, true, 0x48#8) := by decide

/-- P5, line 6: with a valid cache AVAILABLE changes nothing. -/
theorem test_available_peeks :
    facade (command { holding Flags.clear [(1, 0x12#8), (2, 0x1C#8)] 2 with cache := 0x86#8, cacheValid := true } 3#3) =
      some (.bool true, 0, true, 0x86#8) := by decide

/-- P5, line 10: READ takes the cached character and no word. -/
theorem test_read_cached :
    (after (command { holding Flags.clear [(1, 0x1C#8)] 1 with cache := 0x86#8, cacheValid := true } 4#3)).map
      (fun t => (t.rsp, t.tail, t.cacheValid)) = some (.char (.char 0x86#8), 0, false) := by decide

/-- P5, line 11: READ on nothing. -/
theorem test_read_none : facade (command State.reset 4#3) = some (.char .none, 0, false, 0x00#8) := by decide

/-- P5, line 9: FLUSH leaves the cache. -/
theorem test_flush_keeps_cache :
    facade (command { State.reset with head := 6, tail := 2, cache := 0x86#8, cacheValid := true } 5#3) =
      some (.done, 6, true, 0x86#8) := by decide

/-- R122 with `FLUSH_CLEARS_CACHE` true. -/
theorem test_flush_clears_cache :
    (after (command { State.reset with
      cfg := { Config.default with flushClearsCache := true }
      head := 6, tail := 2, cache := 0x86#8, cacheValid := true } 5#3)).map
      (fun t => (t.tail, t.cacheValid)) = some (6, false) := by decide

/-- R123, R151: both indices 0, the flags and the cache kept. -/
theorem test_begin :
    (after (command { State.reset with head := 5, tail := 2, flags := flags 1 0 1 0, cache := 0x61#8, cacheValid := true } 6#3)).map
      (fun t => (t.head, t.tail, t.flags, t.cacheValid)) = some (0, 0, flags 1 0 1 0, true) := by decide

/-- R123, R141: one request, with the baud rate of R3. -/
theorem test_begin_request :
    (after (command State.reset 6#3)).map (fun t => t.cfgOut.map CfgRequest.baud) = some [19200] := by decide

/-- R64. -/
theorem test_rsvd7 : refusal (command State.reset 7#3) = some .reservedCommand := by decide

/-! ## Micro-steps (P4, R157, R158) -/

/-- P4, line 3. -/
theorem test_clear_1 : (after (micro { slots 4 with head := 2 } 1#3)).map (fun t => (t.tail, t.ctl)) =
    some (0, .clearTail .clear 2) := by decide

/-- P4, line 6: `TAIL` takes the `HEAD` read before the PUSH. -/
theorem test_clear_2 : ring (micro { slots 4 with head := 3, ctl := .clearTail .clear 2 } 1#3) =
    some (.done, 3, 2) := by decide

theorem test_overlap : refusal (micro { State.reset with ctl := .clearTail .clear 0 } 0#3) =
    some .overlappingConsumer := by decide

/-- R158: a PUSH between BEGIN.2 and BEGIN.3 tests fullness against the old `TAIL`, here 2. -/
theorem test_push_inside_begin :
    (after (receive { State.reset with head := 1, tail := 2, ctl := .beginTail } 0x1C#8)).map
      (fun t => (t.head, t.tail)) = some (1, 2) := by decide

/-- R158: and when it succeeds, its byte survives BEGIN.3. -/
theorem test_begin_3_keeps_byte :
    (after (micro { State.reset with buf := [(1, 0x1C#8)], head := 1, tail := 2, ctl := .beginTail } 6#3)).map
      (fun t => (t.unread, t.tail)) = some ([0x1C#8], 0) := by decide

/-! ## Result forms (R59, R61) -/

/-- R63: POP of a byte, and AVAILABLE, on the response port. -/
theorem test_response_pop :
    (after (command (holding Flags.clear [(1, 0x1C#8)] 1) 0#3)).map (fun t => (t.rsp.present, t.rsp.data)) =
      some (some true, some 0x1C#8) := by decide
theorem test_response_available :
    (after (command (holding Flags.clear [(1, 0x1C#8)] 1) 3#3)).map (fun t => (t.rsp.present, t.rsp.data)) =
      some (some true, none) := by decide

theorem test_widen : CharResult.widen (.char 0x86#8) = 0x0086#16 := by decide
theorem test_pack : (flags 1 0 1 0).pack = 0b0101#4 := by decide

/-! ## The host's one-word entry (log entries 16 and 17) -/

theorem test_word_push : decodeTableWord 9 0xAA = some (.push 0xAA#8) := by decide
theorem test_word_flush : decodeTableWord 8 5 = some .flush := by decide
theorem test_word_up : decodeTableWord 8 0x75 = some .scXUp := by decide
theorem test_word_high : decodeTableWord 8 0x80 = some (.scHigh 0x80#8) := by decide

/-- The very next step runs the operation. -/
theorem test_fetch_flush :
    ring (step (State.withFetchWord { State.reset with head := 3, tail := 1 } 8 5)) = some (.done, 3, 3) := by
  decide

/-- The very next step is the POP.3 that hands the word to its class. -/
theorem test_fetch_up : decoded (step (State.reset.withFetchWord 8 0x75)) =
    some (.char (.char 0x86#8), 1, flags 0 0 0 0) := by decide

/-! ## Witnesses: states and operands that meet the hypotheses of the obligations -/

/-- The word `w` unread, and nothing else. -/
def one (w : Byte) : State := holding Flags.clear [(1, w)] 1

/-- Two slots, the one usable slot filled: every boundary of the ring at once. -/
def full : State := { slots 2 with buf := [(1, 0x11#8)], head := 1 }

/-- `full` with an operation in progress. -/
def inside (c : Ctl) : State := { full with ctl := c }

theorem witness_StepKeepsTheInvariant :
    let s := { full with inputs := [.cmd 2#3] }
    s.inv = true ∧ (after (step s)).isSome = true := by decide

theorem witness_ConfigurationIsFixed :
    (after (step { full with inputs := [.micro 6#3] })).isSome = true := by decide

theorem witness_NoStepFaults_admitted :
    ({ full with inputs := [.cmd 6#3] } : State).admits = true ∧
    ({ inside .beginHead with inputs := [.rx 0#8] } : State).admits = true ∧
    ({ inside .beginTail with inputs := [.micro 6#3] } : State).admits = true ∧
    (inside .beginTail).admits = true := by decide

theorem witness_NoStepFaults_refused :
    ({ full with inputs := [.cmd 7#3] } : State).admits = false ∧
    ({ inside .beginCfg with inputs := [.cmd 0#3] } : State).admits = false ∧
    ({ inside .beginCfg with inputs := [.micro 5#3] } : State).admits = false := by decide

theorem witness_StepRunsTheDecodedInstruction_lines :
    ({ full with inputs := [.rx 0xFF#8] } : State).inputs = .rx 0xFF#8 :: [] ∧
    decode full.cfg .producer 0xFF#8 = .ok (.push 0xFF#8) ∧
    ({ full with inputs := [.cmd 7#3] } : State).inputs = .cmd 7#3 :: [] ∧
    decode full.cfg .consumer ((7#3 : Cmd).setWidth 8) = .ok .rsvd7 := ⟨rfl, rfl, rfl, rfl⟩

theorem witness_StepRunsTheDecodedInstruction_words :
    let s := inside (.popTail (.word .read) 0x7F#8)
    ({ s with inputs := [.micro DecodeUser.read.code] } : State).inputs = .micro DecodeUser.read.code :: [] ∧
    s.inputs = [] ∧ s.ctl = .popTail (.word .read) 0x7F#8 ∧
    decode s.cfg (.scan s.context) 0x7F#8 = .ok (.scKeyu 0x7F#8) := ⟨rfl, rfl, rfl, rfl⟩

theorem witness_DecodeOfEncode :
    Instr.wf Config.default (.push 0xFF#8) = true ∧ Instr.onPort .producer (.push 0xFF#8) = true ∧
    Instr.wf Config.default .rsvd7 = true ∧ Instr.onPort .consumer .rsvd7 = true ∧
    Instr.wf Config.default (.scRel 0x12#8) = true ∧ Instr.onPort (.scan ⟨true, true, true⟩) (.scRel 0x12#8) = true ∧
    Instr.wf Config.default .scXKpenter = true ∧ Instr.onPort (.scan ⟨false, true, true⟩) .scXKpenter = true ∧
    Instr.wf Config.default (.scXnone 0xFF#8) = true ∧ Instr.onPort (.scan ⟨false, true, false⟩) (.scXnone 0xFF#8) = true ∧
    Instr.wf Config.default (.scHigh 0x80#8) = true ∧ Instr.onPort (.scan ⟨false, false, true⟩) (.scHigh 0x80#8) = true ∧
    Instr.wf Config.default (.scKeys 0x7F#8) = true ∧ Instr.onPort (.scan ⟨false, false, true⟩) (.scKeys 0x7F#8) = true ∧
    Instr.wf Config.default (.scKeyu 0x00#8) = true ∧ Instr.onPort (.scan ⟨false, false, false⟩) (.scKeyu 0x00#8) = true := by
  decide

theorem witness_EncodeOfDecode :
    decode Config.default (.scan ⟨false, true, false⟩) 0x5A#8 = .ok .scXKpenter ∧
    decode Config.default .consumer 7#8 = .ok .rsvd7 := ⟨rfl, rfl⟩

theorem witness_FullBufferDropsTheIncomingByte :
    (full.head + 1) % full.cfg.N = full.tail := by decide

/-- The hypothesis of PopReturnsTheOldest, ClearDiscardsUnread, PopAfterFlushIsEmpty,
FlushDropsRawBytes, BeginConfiguresAndEmpties and of the second part of BeginIsAPartialReset. -/
theorem witness_idle : full.ctl = .idle ∧ State.reset.ctl = .idle := by decide

theorem witness_RingIsABoundedQueue :
    full.inv = true ∧ full.ctl = .idle ∧ [Input.rx 0x22#8, .cmd 0#3, .rx 0x00#8].all Spec.isRingLine = true := by
  decide

theorem witness_UnreadBytesOnlyLeaveInOrder :
    let s := { inside (.clearTail .clear 0) with inputs := [.rx 0x22#8] }
    s.inv = true ∧ s.ctl ≠ .beginHead ∧ (after (step s)).isSome = true := by decide

/-- The hypothesis of UsableCapacityIsNMinusOne and IndicesFitTheirWidth. -/
theorem witness_inv : full.inv = true ∧ State.reset.inv = true := by decide

theorem witness_RingOperationsFrame :
    (after (exec (.push 0x22#8) State.reset)).isSome = true ∧ (after (exec (.push 0x22#8) full)).isSome = true ∧
    State.reset.buf.wf = true ∧ (after (exec .pop full)).isSome = true ∧
    (after (exec .clear full)).isSome = true := by decide

theorem witness_ReleaseEmitsNothing :
    (0x12#8 : Byte) ≠ 0xF0#8 ∧ (0x12#8 : Byte) ≠ 0xE0#8 ∧ (0xFF#8 : Byte) ≠ 0xF0#8 ∧ (0xFF#8 : Byte) ≠ 0xE0#8 ∧
    (⟨true, true, false⟩ : Context).brk = true := by decide

theorem witness_ShiftPressLatches : (⟨false, true, true⟩ : Context).brk = false := by decide

theorem witness_ExtendedKeysReturnTheirBytes :
    Config.default.keyReachable .insert = true ∧ Config.default.keyReachable .kpEnter = true ∧
    (⟨false, true, true⟩ : Context).brk = false ∧ (⟨false, true, true⟩ : Context).modifier = true ∧
    State.reset.cfg.wf = true := by decide

theorem witness_UnlistedExtendedCodeEmitsNothing :
    (0xFF#8 : Byte) ≠ 0xF0#8 ∧ (0xFF#8 : Byte) ≠ 0xE0#8 ∧ (0xFF#8 : Byte) ≠ 0x12#8 ∧ (0xFF#8 : Byte) ≠ 0x59#8 ∧
    (⟨false, true, true⟩ : Context).brk = false ∧ (⟨false, true, true⟩ : Context).modifier = true ∧
    Config.default.ext 0xFF#8 = 0#8 := by decide

theorem witness_ShiftedLookup :
    (0x7F#8 : Byte).toNat < 128 ∧ (0x7F#8 : Byte) ≠ 0x12#8 ∧ (0x7F#8 : Byte) ≠ 0x59#8 ∧
    (⟨false, false, true⟩ : Context).brk = false ∧ (⟨false, false, true⟩ : Context).modifier = false ∧
    (⟨false, false, true⟩ : Context).shift = true ∧
    State.reset.cfg.tS[(0x7F#8 : Byte).toNat]?.getD 0#8 = 0#8 ∧
    State.reset.cfg.tS[(0x1C#8 : Byte).toNat]?.getD 0#8 ≠ 0#8 := by decide

theorem witness_UnshiftedLookup :
    (0x00#8 : Byte).toNat < 128 ∧ (0x00#8 : Byte) ≠ 0x12#8 ∧ (0x00#8 : Byte) ≠ 0x59#8 ∧
    (⟨false, false, false⟩ : Context).brk = false ∧ (⟨false, false, false⟩ : Context).modifier = false ∧
    (⟨false, false, false⟩ : Context).shift = false ∧
    State.reset.cfg.tU[(0x00#8 : Byte).toNat]?.getD 0#8 = 0#8 ∧
    State.reset.cfg.tU[(0x1C#8 : Byte).toNat]?.getD 0#8 ≠ 0#8 := by decide

theorem witness_CodeOutsideTheTablesEmitsNothing :
    128 ≤ (0x80#8 : Byte).toNat ∧ (0x80#8 : Byte) ≠ 0xF0#8 ∧ (0x80#8 : Byte) ≠ 0xE0#8 ∧
    (⟨false, false, true⟩ : Context).brk = false ∧ (⟨false, false, true⟩ : Context).modifier = false := by decide

/-- The three premises of PrefixFlagsLastOneCode's second clause, and those of its third. -/
theorem witness_PrefixFlagsLastOneCode :
    (0x12#8 : Byte) ≠ 0xF0#8 ∧ (0x12#8 : Byte) ≠ 0xE0#8 ∧ State.reset.cfg.shiftMakeClearsPrefix = true ∧
    ({ State.reset with flags := flags 1 1 0 0 } : State).flags.brk = true ∧
    ((0x13#8 : Byte) ≠ 0x12#8 ∧ (0x13#8 : Byte) ≠ 0x59#8) ∧
    ({ State.reset with cfg := { Config.default with shiftMakeClearsPrefix := false } } : State).cfg.shiftMakeClearsPrefix = false ∧
    State.reset.flags.brk = false := by decide

theorem witness_FourWordsClearEveryFlag :
    let s := holding (flags 1 1 1 1) [(1, 0xF0#8), (2, 0x12#8), (3, 0xF0#8), (4, 0x59#8)] 4
    s.inv = true ∧ s.ctl = .idle ∧ s.unread = [0xF0#8, 0x12#8, 0xF0#8, 0x59#8] := by decide

theorem witness_ScanWordsFrame :
    Instr.scHigh 0xFF#8 |>.onPort (.scan ⟨false, false, true⟩) := by decide

/-- The hypotheses of DecodeRunsTheLoop and AvailableIsIdempotent. -/
theorem witness_DecodeRunsTheLoop : (one 0x1C#8).inv = true ∧ (one 0x1C#8).ctl = .idle := by decide

/-- The hypotheses of AvailablePeeks and ReadReturnsTheNextCharacter, with and without a cached
character. -/
theorem witness_AvailablePeeks :
    let s := { one 0x1C#8 with cache := 0x61#8, cacheValid := true }
    s.inv = true ∧ s.ctl = .idle ∧ s.cacheValid = true ∧
    (one 0xF0#8).inv = true ∧ (one 0xF0#8).ctl = .idle ∧ (one 0xF0#8).cacheValid = false := by decide

theorem witness_ReservedCodeIsRefused :
    ({ full with inputs := [.cmd 7#3] } : State).inputs = .cmd 7#3 :: [] ∧
    ({ full with inputs := [.micro 7#3] } : State).inputs = .micro 7#3 :: [] ∧ (6#3 : Cmd) ≠ 7#3 := by decide

theorem witness_AvailableIsIdempotent :
    (after (exec .available (one 0x1C#8))).map State.rsp = some (.bool true) ∧
    (after (exec .available (one 0xF0#8))).map State.rsp = some (.bool false) := by decide

/-- A character cached, and the next line an AVAILABLE. -/
def cached : State :=
  { one 0x1C#8 with
    cfg := { Config.default with flushClearsCache := true }
    cache := 0x61#8, cacheValid := true, inputs := [.cmd 3#3] }

theorem witness_AvailableIsIdempotent_state :
    cached.inv = true ∧ cached.cacheValid = true ∧ cached.ctl = .idle ∧
    (after (step cached)).isSome = true := by decide

theorem witness_AvailableIsIdempotent_lines :
    (∀ rest, cached.inputs ≠ .cmd 4#3 :: rest ∧ cached.inputs ≠ .micro 4#3 :: rest) ∧
    (∀ rest, cached.inputs ≠ .cmd 5#3 :: rest ∧ cached.inputs ≠ .micro 5#3 :: rest) ∧
    (∀ h, cached.ctl ≠ .clearTail .flush h) := by
  refine ⟨fun rest => ?_, fun rest => ?_, fun h => ?_⟩ <;> simp [cached, one, holding, State.reset]

theorem witness_FacadeOperationsFrame :
    let s := { one 0x1C#8 with cache := 0x61#8, cacheValid := true }
    (after (exec .decode s)).isSome = true ∧ (after (exec .available s)).isSome = true ∧
    (after (exec .read s)).isSome = true ∧ s.cacheValid = true ∧ (after (exec .flush s)).isSome = true ∧
    s.cfg.flushClearsCache = false ∧ (after (exec .beginOp s)).isSome = true := by decide

theorem witness_EachFieldHasOneWriter :
    (after (step { full with inputs := [.cmd 5#3] })).isSome = true ∧
    (after (step { full with inputs := [.rx 0x22#8] })).isSome = true := by decide

theorem witness_OnlyTheDecoderWritesTheFlags :
    (after (step { one 0xF0#8 with inputs := [.cmd 2#3] })).map State.flags = some (flags 1 0 0 0) ∧
    (after (step { one 0xF0#8 with ctl := .popTail (.word .available) 0xF0#8 })).map State.flags =
      some (flags 1 0 0 0) := by decide

theorem witness_StaleSlotsAreUnobservable :
    let s := { one 0x1C#8 with inputs := [.cmd 0#3] }
    s.inv = true ∧ ({ s with buf := [(0, 0x33#8), (1, 0x1C#8), (15, 0x44#8)] } : State).inv = true ∧
    ({ s with buf := [(0, 0x33#8), (1, 0x1C#8), (15, 0x44#8)] } : State).visible = s.visible ∧
    (after (step s)).isSome = true ∧
    refusal (step { s with inputs := [.cmd 7#3] }) = some .reservedCommand := by decide

/-- `CACHE_VALID` 0, in front of an AVAILABLE that fills the cache and in front of a refusal. -/
theorem witness_StaleSlotsAreUnobservable_cache :
    let s := { one 0x1C#8 with inputs := [.cmd 3#3] }
    s.cacheValid = false ∧ (after (step s)).map State.cacheValid = some true ∧
    refusal (step { s with inputs := [.micro 7#3] }) = some .reservedCommand := by decide

theorem witness_StaleSlotsAreUnobservable_begin :
    let s := { State.reset with buf := [(1, 0x1C#8)], head := 1, tail := 15, ctl := .beginTail }
    s.inv = true ∧ ({ s with buf := [(0, 0x33#8), (1, 0x1C#8)] } : State).inv = true ∧
    ({ s with buf := [(0, 0x33#8), (1, 0x1C#8)] } : State).visible = s.visible := by decide

theorem witness_MicroStepsFollowTheTable :
    full.inputs = [] ∧ full.head ≠ full.tail ∧ State.reset.head = State.reset.tail ∧
    (inside (.popHead (.word .available))).ctl = .popHead (.word .available) ∧
    ({ State.reset with ctl := .popHead .direct } : State).ctl = .popHead .direct ∧
    ({ State.reset with ctl := .popHead (.word .decode) } : State).ctl = .popHead (.word .decode) ∧
    ({ State.reset with ctl := .popHead (.word .read) } : State).ctl = .popHead (.word .read) ∧
    ({ State.reset with ctl := .popHead (.word .available) } : State).ctl = .popHead (.word .available) ∧
    (inside (.popSlot .direct)).ctl = .popSlot .direct ∧
    (inside (.popTail .direct 0x11#8)).ctl = .popTail .direct 0x11#8 ∧
    (inside (.popTail (.word .read) 0x11#8)).ctl = .popTail (.word .read) 0x11#8 ∧
    (inside (.clearHead .flush)).ctl = .clearHead .flush ∧
    (inside (.clearTail .clear 1)).ctl = .clearTail .clear 1 ∧
    (inside (.clearTail .flush 0)).ctl = .clearTail .flush 0 ∧
    (inside .beginCfg).ctl = .beginCfg ∧ (inside .beginHead).ctl = .beginHead ∧
    (inside .beginTail).ctl = .beginTail := by decide

/-- A line of the operation in progress. -/
theorem witness_MicroStepsFollowTheTable_line :
    (inside (.popTail (.word .read) 0x11#8)).ctl.code = some 4#3 ∧
    ({ inside (.popTail (.word .read) 0x11#8) with inputs := [.micro 4#3, .rx 0#8] } : State).inputs =
      .micro 4#3 :: [.rx 0#8] := by decide

/-- The hypotheses of MicroStepsMakeTheWholeOperation and ClearKeepsBytesPushedAfterItsRead. -/
theorem witness_MicroStepsMakeTheWholeOperation :
    full.inv = true ∧ full.ctl = .idle ∧ (6#3 : Cmd) ≠ 7#3 := by decide

theorem witness_PopIsLinearizable :
    full.inv = true ∧ full.ctl = .idle ∧ full.head ≠ full.tail ∧
    (slots 2).inv = true ∧ (slots 2).ctl = .idle ∧ (slots 2).head = (slots 2).tail := by decide

theorem witness_DecodeMayRunForever :
    (slots 2).inv = true ∧ (slots 2).ctl = .idle ∧ (slots 2).head = (slots 2).tail := by decide

theorem witness_OverlappingConsumerIsRefused :
    let s := inside (.popSlot .direct)
    (1#3 : Cmd) ≠ 7#3 ∧ s.ctl ≠ .idle ∧ s.ctl.code ≠ some 1#3 ∧
    ({ s with inputs := [.cmd 1#3] } : State).inputs = .cmd 1#3 :: [] ∧
    ({ s with inputs := [.micro 1#3] } : State).inputs = .micro 1#3 :: [] := by decide

/-- The hypotheses of BeginKeepsBytesPushedAfterItsWrite, with `TAIL` 0 and not 0. -/
theorem witness_BeginKeepsBytesPushedAfterItsWrite :
    full.inv = true ∧ full.ctl = .idle ∧ full.tail = 0 ∧
    ({ full with tail := 1 } : State).inv = true ∧ ({ full with tail := 1 } : State).tail ≠ 0 := by decide

theorem witness_WidenedResults : (0x01#8 : Byte) ≠ 0#8 ∧ (0xFF#8 : Byte) ≠ 0#8 := by decide

/-- The hypotheses of PseudoOperationsPushTheirBytes: room for the five bytes of an XTAP and for none, the consumer idle and inside an operation. -/
theorem witness_PseudoOperationsPushTheirBytes :
    (slots 6).inv = true ∧ (slots 6).cfg.N - 1 - (slots 6).occupancy = 5 ∧
    full.inv = true ∧ full.cfg.N - 1 - full.occupancy = 0 ∧
    (inside (.popSlot .direct)).inv = true := by decide

/-- The hypotheses of ResponsePortFollowsItsTable: something and nothing to pop, to decode and
cached. -/
theorem witness_ResponsePortFollowsItsTable :
    (one 0x1C#8).inv = true ∧ (one 0x1C#8).ctl = .idle ∧ (one 0x1C#8).cacheValid = false ∧
    (one 0x1C#8).unread = [0x1C#8] ∧ State.reset.unread = [] ∧
    (Spec.decodeWords Config.default Flags.clear [0x1C#8]).1 = .char 0x61#8 ∧
    (Spec.decodeWords Config.default Flags.clear [0xF0#8]).1 = .none ∧
    cached.inv = true ∧ cached.ctl = .idle ∧ cached.cacheValid = true := by decide

end Sys2Proof.Tests
end

section
/-! The scope of the block (00_scope.md): what the parameters are, that no step writes one, and that
the index registers fit in the width `W` derived from them. -/

namespace Sys2Proof

/-! ## The table `EXT` as a function on its keys and off them -/

/-- `EXT` is 0 at a code of none of the twelve keys (R20). -/
theorem Config.ext_eq_zero_of_not_code {cfg : Config} {w : Byte}
    (h : w ∉ ExtKey.all.map cfg.extCode.get) : cfg.ext w = 0#8 := by
  refine Config.ext_of_keyOf_none (List.find?_eq_none.2 fun k hk heq => h ?_)
  exact List.mem_map.2 ⟨k, hk, by simpa using heq⟩

/-- `EXT` at the scan code of a key is that key's output, when no two keys share a code. -/
theorem Config.ext_code {cfg : Config} (h : (ExtKey.all.map cfg.extCode.get).Nodup) (k : ExtKey) :
    cfg.ext (cfg.extCode.get k) = cfg.extOut.get k :=
  Config.ext_of_keyOf (Config.keyOf_code h k)

theorem Config.default_extCode_nodup : (ExtKey.all.map Config.default.extCode.get).Nodup := by
  decide

/-- `W` bits hold every slot index (R11, R12). -/
theorem Config.lt_two_pow_indexWidth {cfg : Config} {i : Nat} (h : i < cfg.N) :
    i < 2 ^ cfg.indexWidth :=
  h.trans_le (Nat.le_pow_clog Nat.one_lt_two cfg.N)

/-- A select code names an operation of the consumer port (R63). -/
theorem decodeCmd_onPort (op : Cmd) : (decodeCmd op).onPort .consumer = true := by
  revert op
  decide

end Sys2Proof

namespace Sys2Proof.Machine

/-! ## No step writes a parameter -/

/-- A consumer operation that answers found none in progress. -/
theorem State.whenIdle_eq_next {s t : State} {run : Out} (h : s.whenIdle run = .next t) :
    s.ctl = .idle ∧ run = .next t := by
  by_cases hi : s.ctl = .idle
  · exact ⟨hi, State.whenIdle_of_idle hi run ▸ h⟩
  · rw [State.whenIdle_of_busy hi] at h
    cases h

theorem State.runDecoder_cfg {s t : State} {u : DecodeUser} (h : s.runDecoder u = .next t) :
    t.cfg = s.cfg := by
  obtain ⟨t', ht', hcfg, -⟩ := decodeLoop_frame s.cfg.N { s with ctl := .popHead (.word u) }
  cases ht'.symm.trans h
  exact hcfg

/-- No whole consumer operation writes a parameter. -/
theorem exec_consumer_cfg {i : Instr} (hp : i.onPort .consumer = true) {s t : State}
    (h : exec i s = .next t) : t.cfg = s.cfg := by
  cases i
  case pop =>
    obtain ⟨-, ⟨⟩⟩ := State.whenIdle_eq_next h
    split <;> simp
  case clear | flush | beginOp =>
    obtain ⟨-, ⟨⟩⟩ := State.whenIdle_eq_next h
    simp
  case decode =>
    obtain ⟨-, hrun⟩ := State.whenIdle_eq_next h
    exact State.runDecoder_cfg hrun
  case available | read =>
    obtain ⟨-, hrun⟩ := State.whenIdle_eq_next h
    split at hrun
    · cases hrun
      simp
    · exact State.runDecoder_cfg hrun
  case rsvd7 => cases h
  all_goals cases hp

/-- No line of micro-step writes a parameter. -/
theorem State.microLine_cfg {s t : State} {op : Cmd} (h : s.microLine op = .next t) :
    t.cfg = s.cfg := by
  rcases s.microLine_cases op with
    ⟨-, e⟩ | ⟨-, -, e⟩ | ⟨-, -, -, e⟩ | ⟨-, -, -, e⟩ <;> rw [e] at h
  · cases h
  · exact (State.microStep_frame h).1.trans (s.start_cfg op)
  · exact (State.microStep_frame h).1
  · cases h

/-- R3: no step writes a parameter, whatever its trace line. -/
theorem step_cfg {s t : State} (h : step s = .next t) : t.cfg = s.cfg := by
  cases hl : s.inputs with
  | nil =>
    rw [step_of_nil hl] at h
    exact (State.microStep_frame h).1
  | cons l rest =>
    cases l with
    | rx b =>
      rw [step_of_rx hl] at h
      cases h
      simp
    | cmd op =>
      rw [step_of_cmd hl] at h
      exact exec_consumer_cfg (s := { s with inputs := rest }) (decodeCmd_onPort op) h
    | micro op =>
      rw [step_of_micro hl] at h
      exact State.microLine_cfg (s := { s with inputs := rest }) h

/-! ## The statements -/

/-- Settles O4: `step_cfg` for the steps; the defaults are read off `Config.default`, and `EXT` is
the lookup over twelve different codes. -/
theorem configurationIsFixed : Obligations.ConfigurationIsFixed := by
  unfold Obligations.ConfigurationIsFixed
  have hwidth : Config.default.indexWidth = 4 := Nat.clog_pow 2 4 Nat.one_lt_two
  exact ⟨fun _ _ => step_cfg, rfl, hwidth, rfl, rfl, rfl, rfl, rfl, rfl, rfl,
    fun _ => Config.ext_eq_zero_of_not_code, Config.ext_code Config.default_extCode_nodup, rfl, rfl⟩

/-- Settles O18: the invariant keeps both indices below `N`, and `N ≤ 2 ^ W`. -/
theorem indicesFitTheirWidth : Obligations.IndicesFitTheirWidth := by
  unfold Obligations.IndicesFitTheirWidth
  intro s hinv
  obtain ⟨-, hhead, htail⟩ := State.ring_of_inv hinv
  exact ⟨Config.lt_two_pow_indexWidth hhead, Config.lt_two_pow_indexWidth htail⟩

end Sys2Proof.Machine
end

section
/-! The meaning of a scan-code word as one equation: the flags and the byte of R80's iteration
(`Spec.word`), then `State.emit`. -/

namespace Sys2Proof.Machine

theorem isLookupCode_iff (w : Byte) :
    isLookupCode w = true ↔ w ≠ 0xF0#8 ∧ w ≠ 0xE0#8 ∧ w ≠ 0x12#8 ∧ w ≠ 0x59#8 := by
  simp only [isLookupCode, isKeyCode, Bool.and_eq_true, bne_iff_ne, and_assoc]

/-- R80's iteration on a looked-up word: BREAK and MODIFIER go, and a non-zero byte is returned. -/
theorem word_of_lookup (cfg : Config) {f : Flags} {w : Byte} (hl : isLookupCode w = true)
    (hb : f.brk = false) :
    Spec.word cfg f w =
      (f.clearPrefix, if resolve cfg f w ≠ 0#8 then some (resolve cfg f w) else none) := by
  obtain ⟨hF0, hE0, h12, h59⟩ := (isLookupCode_iff w).1 hl
  simp only [Spec.word, hF0, hE0, h12, h59, hb, Bool.false_eq_true, if_false]
  simp [Flags.clearPrefix, resolve, Flags.shift, Config.shifted, Config.unshifted, tableRead]

/-- A looked-up word emits what the multiplexer of R86 gives. -/
theorem exec_decodeWord_of_lookup {s : State} {w : Byte} (hl : isLookupCode w = true)
    (hb : s.flags.brk = false) :
    exec (decodeWord s.cfg s.context w) s = .next (s.resolved (resolve s.cfg s.flags w)) := by
  obtain ⟨hF0, hE0, h12, h59⟩ := (isLookupCode_iff w).1 hl
  have hb' : s.context.brk = false := hb
  have hm' : s.context.modifier = s.flags.modifier := rfl
  have hs' : s.context.shift = s.flags.shift := rfl
  unfold decodeWord resolve
  simp only [hF0, hE0, h12, h59, hb', hm', hs', Bool.false_eq_true, if_false]
  by_cases hm : s.flags.modifier = true
  · rw [if_pos hm, if_pos hm]
    rcases decodeExtended_cases s.cfg w with ⟨h0, e⟩ | ⟨k, -, hk, e⟩ <;> rw [e]
    · rw [h0]
      rfl
    · rw [exec_ofKey, ← Config.code_of_keyOf hk]
      rfl
  · rw [if_neg hm, if_neg hm]
    by_cases hhigh : 128 ≤ w.toNat
    · simp only [hhigh, if_true, Config.shifted, Config.unshifted, tableRead_of_high _ hhigh, ite_self]
      rfl
    · by_cases hs : s.flags.shift = true <;> simp only [hhigh, hs, if_true, if_false] <;> rfl

/-- The state after R80's iteration on the word `w`. -/
def State.wordDone (s : State) (w : Byte) : State :=
  State.emit { s with flags := (Spec.word s.cfg s.flags w).1 }
    ((Spec.word s.cfg s.flags w).2.getD 0#8)

@[simp] theorem State.wordDone_flags (s : State) (w : Byte) :
    (s.wordDone w).flags = (Spec.word s.cfg s.flags w).1 :=
  State.emit_flags _ _

@[simp] theorem State.wordDone_cfg (s : State) (w : Byte) : (s.wordDone w).cfg = s.cfg :=
  State.emit_cfg _ _
@[simp] theorem State.wordDone_buf (s : State) (w : Byte) : (s.wordDone w).buf = s.buf :=
  State.emit_buf _ _
@[simp] theorem State.wordDone_head (s : State) (w : Byte) : (s.wordDone w).head = s.head :=
  State.emit_head _ _
@[simp] theorem State.wordDone_tail (s : State) (w : Byte) : (s.wordDone w).tail = s.tail :=
  State.emit_tail _ _

/-- Every word's meaning, said with R80's iteration. -/
theorem exec_decodeWord (s : State) (w : Byte) :
    exec (decodeWord s.cfg s.context w) s = .next (s.wordDone w) := by
  have lookup (hl : isLookupCode w = true) (hb : s.flags.brk = false) :
      exec (decodeWord s.cfg s.context w) s = .next (s.wordDone w) := by
    rw [exec_decodeWord_of_lookup hl hb, State.wordDone, word_of_lookup s.cfg hl hb]
    by_cases h0 : resolve s.cfg s.flags w = 0#8 <;> simp [State.resolved, h0]
  rcases decodeWord_cases s.cfg s.context w with ⟨hw, e⟩ | ⟨-, hw, e⟩ | ⟨hF0, hE0, hb, e⟩ |
    ⟨hb, hw, e⟩ | ⟨hb, hw, e⟩ | ⟨hl, hb, -⟩ | ⟨hl, hb, -⟩ | ⟨hl, hb, -⟩ | ⟨hl, hb, -⟩
  case inl | inr.inl =>
    rw [e, hw]
    rfl
  case inr.inr.inl =>
    have hb' : s.flags.brk = true := hb
    rw [e]
    simp only [State.wordDone, Spec.word, hF0, hE0, hb', if_false, if_true]
    rfl
  case inr.inr.inr.inl | inr.inr.inr.inr.inl =>
    have hb' : s.flags.brk = false := hb
    rw [e, hw]
    cases h : s.cfg.shiftMakeClearsPrefix <;>
      simp [State.wordDone, Spec.word, hb', h, exec, execScLsh, execScRsh, Flags.pressLeft, Flags.pressRight,
        Flags.afterShiftMake, State.emit_zero]
  all_goals exact lookup hl hb

/-- The decoder runs a word as R80's iteration says. -/
theorem runWord_eq_word (w : Byte) (s : State) :
    runWord w s = .next (s.wordDone w) := by
  rw [runWord_eq_exec, exec_decodeWord]

/-! ## BREAK and MODIFIER after a key-identifying code -/

/-- R16: no key-identifying code leaves BREAK set. -/
theorem word_brk_of_keyCode (cfg : Config) (f : Flags) {w : Byte} (hF0 : w ≠ 0xF0#8)
    (hE0 : w ≠ 0xE0#8) : (Spec.word cfg f w).1.brk = false := by
  cases hb : f.brk <;> by_cases h12 : w = 0x12#8 <;> by_cases h59 : w = 0x59#8 <;>
    simp [Spec.word, hF0, hE0, hb, h12, h59]

/-- A key-identifying code clears MODIFIER, except a shift press under `SHIFT_MAKE_CLEARS_PREFIX`
false, which leaves it (R83 to R85, R104). -/
theorem word_modifier_of_keyCode (cfg : Config) (f : Flags) {w : Byte} (hF0 : w ≠ 0xF0#8)
    (hE0 : w ≠ 0xE0#8) : (Spec.word cfg f w).1.modifier =
      if f.brk = false ∧ (w = 0x12#8 ∨ w = 0x59#8) ∧ cfg.shiftMakeClearsPrefix = false then f.modifier
      else false := by
  cases hb : f.brk
  case true => simp [Spec.word, hF0, hE0, hb]
  case false =>
    by_cases h12 : w = 0x12#8
    · cases hp : cfg.shiftMakeClearsPrefix <;> simp [Spec.word, hb, h12, hp]
    by_cases h59 : w = 0x59#8
    · cases hp : cfg.shiftMakeClearsPrefix <;> simp [Spec.word, hb, h59, hp]
    · simp [Spec.word, hF0, hE0, hb, h12, h59]

/-- Settles O31: the flags after a word are those of R80's iteration (`exec_decodeWord`). -/
theorem prefixFlagsLastOneCode : Obligations.PrefixFlagsLastOneCode := by
  unfold Obligations.PrefixFlagsLastOneCode
  intro s w hF0 hE0
  refine ⟨_, exec_decodeWord s w, ?_, ?_, ?_⟩ <;>
    simp only [State.wordDone_flags, word_brk_of_keyCode _ _ hF0 hE0,
      word_modifier_of_keyCode _ _ hF0 hE0]
  · rintro (hp | hb | ⟨h12, h59⟩)
    · simp [hp]
    · simp [hb]
    · simp [h12, h59]
  · intro hp hb hw
    rw [if_pos ⟨hb, hw, hp⟩]

end Sys2Proof.Machine
end

section
/-! What a step can do, said once: a PUSH, one micro-step, or a chain of micro-steps from the issue
of an operation. A whole operation is such a chain (30_encoding.md R65, 40_ring_buffer.md R76), so
that what every micro-step keeps, every step of the consumer keeps. -/

namespace Sys2Proof.Machine

/-! ## The end of a word and of a CLEAR, whatever the place it is reached from -/

/-- Where an emitted byte goes depends on the operation in progress alone. -/
theorem State.emit_withCtl (s : State) {c : Ctl} (h : c.decodeUser = s.ctl.decodeUser) (b : Byte) :
    ({ s with ctl := c } : State).emit b = s.emit b := by
  unfold State.emit
  split
  · simp only [State.continueLoop, h]
  · simp only [h]
    cases s.ctl.decodeUser <;> rfl

theorem State.wordDone_withCtl (s : State) {c : Ctl} (h : c.decodeUser = s.ctl.decodeUser)
    (w : Byte) : ({ s with ctl := c } : State).wordDone w = s.wordDone w :=
  State.emit_withCtl { s with flags := (Spec.word s.cfg s.flags w).1 } h _

/-- After a word the operation has ended or its loop starts over. -/
theorem State.wordDone_ctl (s : State) (w : Byte) :
    (s.wordDone w).ctl = .idle ∨ (s.wordDone w).ctl = .popHead (.word s.ctl.decodeUser) := by
  rw [State.wordDone, State.emit_ctl]
  split
  · exact .inr rfl
  · exact .inl rfl

theorem State.endClear_withCtl (s : State) (c : Ctl) (u : ClearUser) :
    ({ s with ctl := c } : State).endClear u = s.endClear u := by
  cases u with
  | clear => rfl
  | flush => cases hf : s.cfg.flushClearsCache <;> simp [State.endClear, State.flushCache, State.finish, hf]

/-! ## The two cases of PUSH -/

theorem State.pushByte_of_full {s : State} (h : s.nextHead = s.tail) (b : Byte) :
    s.pushByte b = s := if_pos h

theorem State.pushByte_of_room {s : State} (h : s.nextHead ≠ s.tail) (b : Byte) :
    s.pushByte b = { s with buf := s.buf.write s.nextHead b, head := s.nextHead } := if_neg h

/-! ## What a micro-step can do -/

/-- The states one micro-step can lead to, by the place it stands at (R76). -/
inductive State.Moves (s : State) : State → Prop
  | stay (hc : s.ctl = .idle) : s.Moves s
  | empty (u : PopUser) (hc : s.ctl = .popHead u) (he : s.head = s.tail) : s.Moves (s.answerEmpty u)
  | nonempty (u : PopUser) (hc : s.ctl = .popHead u) (hne : s.head ≠ s.tail) :
      s.Moves { s with ctl := .popSlot u }
  | slot (u : PopUser) (hc : s.ctl = .popSlot u) : s.Moves { s with ctl := .popTail u s.peekByte }
  | byte (b : Byte) (hc : s.ctl = .popTail .direct b) :
      s.Moves (s.advanceTail.finish (.raw (.byte b)))
  | word (u : DecodeUser) (b : Byte) (hc : s.ctl = .popTail (.word u) b) :
      s.Moves (s.advanceTail.wordDone b)
  | clearHead (u : ClearUser) (hc : s.ctl = .clearHead u) :
      s.Moves { s with ctl := .clearTail u s.head }
  | clearTail (u : ClearUser) (h : Nat) (hc : s.ctl = .clearTail u h) :
      s.Moves ((s.setTail h).endClear u)
  | beginCfg (hc : s.ctl = .beginCfg) : s.Moves { s.issueConfig with ctl := .beginHead }
  | beginHead (hc : s.ctl = .beginHead) : s.Moves { s with head := 0, ctl := .beginTail }
  | beginTail (hc : s.ctl = .beginTail) : s.Moves (State.finish { s with tail := 0 } .done)

/-- A micro-step, taken apart. -/
theorem State.moves_of_microStep {s t : State} (h : s.microStep = .next t) : s.Moves t := by
  unfold State.microStep at h
  split at h
  case h_1 hc => cases h; exact .stay hc
  case h_2 u hc =>
    cases h
    split
    · exact .empty u hc ‹_›
    · exact .nonempty u hc ‹_›
  case h_3 u hc => cases h; exact .slot u hc
  case h_4 u b hc =>
    cases u with
    | direct => cases h; exact .byte b hc
    | word u =>
      cases (runWord_eq_word b s.advanceTail).symm.trans h
      exact .word u b hc
  case h_5 u hc => cases h; exact .clearHead u hc
  case h_6 u n hc => cases h; exact .clearTail u n hc
  case h_7 hc => cases h; exact .beginCfg hc
  case h_8 hc => cases h; exact .beginHead hc
  case h_9 hc => cases h; exact .beginTail hc

/-- A micro-step stays in the operation it belongs to or ends it. -/
theorem State.Moves.code {s t : State} (h : s.Moves t) :
    t.ctl.code = none ∨ t.ctl.code = s.ctl.code := by
  cases h
  case stay => exact .inr rfl
  case empty | byte | clearTail | beginTail => exact .inl (by simp [Ctl.code])
  case word u b hc =>
    rcases s.advanceTail.wordDone_ctl b with e | e <;> rw [e]
    · exact .inl rfl
    · exact .inr (by simp [hc, Ctl.decodeUser, Ctl.code])
  case nonempty u hc _ | slot u hc | clearHead u hc => simp [hc, Ctl.code]
  case beginCfg hc | beginHead hc => simp [hc, Ctl.code]

/-- Only the decoder's POP.3 writes the flags. -/
theorem State.Moves.flags {s t : State} (h : s.Moves t) (hw : ∀ u w, s.ctl ≠ .popTail (.word u) w) :
    t.flags = s.flags := by
  cases h
  case word u b hc => exact absurd hc (hw u b)
  all_goals simp

/-! ## Chains of micro-steps -/

/-- A chain of micro-steps, with no PUSH between them. -/
def MicroRun : State → State → Prop := Relation.ReflTransGen fun s t => s.microStep = .next t

/-- What every micro-step keeps, a chain of them keeps. -/
theorem MicroRun.keeps {P : State → Prop} (hstep : ∀ s t, P s → s.microStep = .next t → P t)
    {s t : State} (h : MicroRun s t) (hs : P s) : P t := by
  induction h with
  | refl => exact hs
  | tail _ hbc ih => exact hstep _ _ ih hbc

theorem MicroRun.next {s a t : State} (h : s.microStep = .next a) (ht : MicroRun a t) : MicroRun s t :=
  .head h ht

theorem MicroRun.buf {s t : State} (h : MicroRun s t) : t.buf = s.buf :=
  h.keeps (P := fun a => a.buf = s.buf)
    (fun _ _ ha hab => (State.microStep_frame hab).2.1.trans ha) rfl

/-- No operation but BEGIN writes `HEAD`. -/
theorem MicroRun.head {s t : State} (h : MicroRun s t) (hc : s.ctl.code ≠ some 6#3) :
    t.head = s.head := by
  refine (h.keeps (P := fun a => a.ctl.code ≠ some 6#3 ∧ a.head = s.head) ?_ ⟨hc, rfl⟩).2
  rintro a b ⟨hca, ha⟩ hab
  refine ⟨?_, ((State.microStep_frame hab).2.2.2 fun h8 => hca (by rw [h8]; rfl)).trans ha⟩
  rcases (State.moves_of_microStep hab).code with hb | hb <;> rw [hb]
  · exact nofun
  · exact hca

/-- No operation but the three that run the decoder writes the flags. -/
theorem MicroRun.flags {s t : State} (h : MicroRun s t)
    (hc : ∀ u : DecodeUser, s.ctl.code ≠ some u.code) : t.flags = s.flags := by
  refine (h.keeps (P := fun a => (∀ u : DecodeUser, a.ctl.code ≠ some u.code) ∧ a.flags = s.flags)
    ?_ ⟨hc, rfl⟩).2
  rintro a b ⟨hca, ha⟩ hab
  have hmove := State.moves_of_microStep hab
  refine ⟨fun u => ?_, (hmove.flags fun u w h4 => hca u (by rw [h4]; rfl)).trans ha⟩
  rcases hmove.code with hb | hb <;> rw [hb]
  · exact nofun
  · exact hca u

/-! ## A whole operation is a chain of its micro-steps -/

theorem State.microStep_of_empty {s : State} {u : PopUser} (hc : s.ctl = .popHead u)
    (he : s.head = s.tail) : s.microStep = .next (s.answerEmpty u) := by
  simp [State.microStep, hc, he]

theorem State.microStep_of_nonempty {s : State} {u : PopUser} (hc : s.ctl = .popHead u)
    (hne : s.head ≠ s.tail) : s.microStep = .next { s with ctl := .popSlot u } := by
  simp [State.microStep, hc, hne]

/-- POP of a non-empty ring, from POP.1 to the end of POP.3. -/
theorem MicroRun.of_popped {s t : State} {u : PopUser} (hc : s.ctl = .popHead u)
    (hne : s.head ≠ s.tail)
    (ht : ({ s with ctl := .popTail u s.peekByte } : State).advanceTail.popped s.peekByte u = .next t) :
    MicroRun s t :=
  .next (State.microStep_of_nonempty hc hne) (.next rfl (.next ht .refl))

/-- The decoder's loop is a chain of POPs (R80, R109). -/
theorem decodeLoop_microRun {n : Nat} {s t : State} {u : DecodeUser} (hc : s.ctl = .popHead (.word u))
    (h : decodeLoop n s = .next t) : MicroRun s t := by
  induction n generalizing s with
  | zero =>
    cases h
    exact .refl
  | succ n ih =>
    unfold decodeLoop at h
    by_cases he : s.head = s.tail
    · rw [if_pos he, hc] at h
      cases h
      exact .single (State.microStep_of_empty hc he)
    have hu : s.advanceTail.ctl.decodeUser = u := by simp [hc, Ctl.decodeUser]
    have hpop : MicroRun s (s.advanceTail.wordDone s.peekByte) := by
      refine .of_popped hc he ((runWord_eq_word _ _).trans (congrArg _ ?_))
      exact s.advanceTail.wordDone_withCtl (c := .popTail (.word u) s.peekByte) hu.symm s.peekByte
    rw [if_neg he, runWord_eq_word] at h
    simp only at h
    split at h
    · cases h
      exact hpop
    · have hgo := (s.advanceTail.wordDone_ctl s.peekByte).resolve_left ‹_›
      exact hpop.trans (ih (hu ▸ hgo) h)

theorem State.runDecoder_microRun {s t : State} {u : DecodeUser} (h : s.runDecoder u = .next t) :
    MicroRun { s with ctl := .popHead (.word u) } t :=
  decodeLoop_microRun rfl h

theorem State.start_available (s : State) : s.start 3#3 =
    if s.cacheValid = true then s.finish (.bool true)
    else { s with ctl := .popHead (.word .available) } := rfl

theorem State.start_read (s : State) : s.start 4#3 =
    if s.cacheValid = true then s.takeCached else { s with ctl := .popHead (.word .read) } := rfl

/-- R65: a whole operation that answers found none in progress, and is the chain of its micro-steps
from its issue. -/
theorem exec_cmd_microRun {s t : State} {op : Cmd} (h : exec (decodeCmd op) s = .next t) :
    s.ctl = .idle ∧ MicroRun (s.start op) t := by
  rcases cmd_cases op with rfl | rfl | rfl | rfl | rfl | rfl | rfl | rfl
  case inl =>
    obtain ⟨hi, ⟨⟩⟩ := State.whenIdle_eq_next h
    refine ⟨hi, ?_⟩
    by_cases he : s.head = s.tail
    · rw [if_pos he]
      exact .single (State.microStep_of_empty (s := s.start 0#3) (u := .direct) rfl he)
    · rw [if_neg he]
      exact .of_popped rfl he rfl
  case inr.inl =>
    obtain ⟨hi, ⟨⟩⟩ := State.whenIdle_eq_next h
    exact ⟨hi, .next rfl (.single rfl)⟩
  case inr.inr.inl =>
    obtain ⟨hi, hrun⟩ := State.whenIdle_eq_next h
    exact ⟨hi, State.runDecoder_microRun hrun⟩
  case inr.inr.inr.inl | inr.inr.inr.inr.inl =>
    obtain ⟨hi, hrun⟩ := State.whenIdle_eq_next h
    refine ⟨hi, ?_⟩
    by_cases hv : s.cacheValid = true
    · rw [if_pos hv] at hrun
      cases hrun
      simp only [State.start_available, State.start_read, if_pos hv]
      exact .refl
    · rw [if_neg hv] at hrun
      simp only [State.start_available, State.start_read, if_neg hv]
      exact State.runDecoder_microRun hrun
  case inr.inr.inr.inr.inr.inl =>
    obtain ⟨hi, ⟨⟩⟩ := State.whenIdle_eq_next h
    refine ⟨hi, .next rfl (.single ?_)⟩
    exact congrArg _ (State.endClear_withCtl (s.setTail s.head) _ .flush)
  case inr.inr.inr.inr.inr.inr.inl =>
    obtain ⟨hi, ⟨⟩⟩ := State.whenIdle_eq_next h
    exact ⟨hi, .next rfl (.next rfl (.single rfl))⟩
  case inr.inr.inr.inr.inr.inr.inr => cases h

/-! ## What issuing an operation can do -/

/-- An issued operation stands before its first micro-step, or has answered from the cache. -/
theorem State.start_cases {s : State} (op : Cmd) :
    (∃ u : PopUser, u.code = op ∧ s.cacheFreeFor u = true ∧ s.start op = { s with ctl := .popHead u }) ∨
    (∃ u : ClearUser, u.code = op ∧ s.start op = { s with ctl := .clearHead u }) ∨
    (op = 6#3 ∧ s.start op = { s with ctl := .beginCfg }) ∨
    (s.cacheValid = true ∧ s.start op = s.finish (.bool true)) ∨
    (s.cacheValid = true ∧ s.start op = s.takeCached) ∨
    (op = 7#3 ∧ s.start op = s) := by
  rcases cmd_cases op with rfl | rfl | rfl | rfl | rfl | rfl | rfl | rfl
  case inl => exact .inl ⟨.direct, rfl, rfl, rfl⟩
  case inr.inl => exact .inr (.inl ⟨.clear, rfl, rfl⟩)
  case inr.inr.inl => exact .inl ⟨.word .decode, rfl, rfl, rfl⟩
  case inr.inr.inr.inl =>
    cases hv : s.cacheValid
    · exact .inl ⟨.word .available, rfl, by simp [State.cacheFreeFor, hv], by simp [State.start, hv]⟩
    · exact .inr (.inr (.inr (.inl ⟨rfl, by simp [State.start, hv]⟩)))
  case inr.inr.inr.inr.inl =>
    cases hv : s.cacheValid
    · exact .inl ⟨.word .read, rfl, by simp [State.cacheFreeFor, hv], by simp [State.start, hv]⟩
    · exact .inr (.inr (.inr (.inr (.inl ⟨rfl, by simp [State.start, hv]⟩))))
  case inr.inr.inr.inr.inr.inl => exact .inr (.inl ⟨.flush, rfl, rfl⟩)
  case inr.inr.inr.inr.inr.inr.inl => exact .inr (.inr (.inl ⟨rfl, rfl⟩))
  case inr.inr.inr.inr.inr.inr.inr => exact .inr (.inr (.inr (.inr (.inr ⟨rfl, rfl⟩))))

/-- Issuing an operation puts nothing into the cache. -/
theorem State.cacheValid_of_start {s : State} {op : Cmd} (h : (s.start op).cacheValid = true) :
    s.cacheValid = true := by
  rcases s.start_cases op with ⟨u, -, -, e⟩ | ⟨u, -, e⟩ | ⟨-, e⟩ | ⟨hv, -⟩ | ⟨hv, -⟩ | ⟨-, e⟩
  case inr.inr.inr.inl | inr.inr.inr.inr.inl => exact hv
  all_goals
    rw [e] at h
    exact h

/-- Where an operation issued on an idle block stands. -/
theorem State.start_ctl {s : State} (hi : s.ctl = .idle) (op : Cmd) :
    (s.start op).ctl = .idle ∨ (∃ u, (s.start op).ctl = .popHead u) ∨
    (∃ u, (s.start op).ctl = .clearHead u) ∨ (s.start op).ctl = .beginCfg := by
  rcases s.start_cases op with ⟨u, -, -, e⟩ | ⟨u, -, e⟩ | ⟨-, e⟩ | ⟨-, e⟩ | ⟨-, e⟩ | ⟨-, e⟩ <;> rw [e]
  · exact .inr (.inl ⟨u, rfl⟩)
  · exact .inr (.inr (.inl ⟨u, rfl⟩))
  · exact .inr (.inr (.inr rfl))
  · exact .inl rfl
  · exact .inl rfl
  · exact .inl hi

/-- An operation issued on an idle block is the one in progress, or has ended. -/
theorem State.start_code {s : State} (hi : s.ctl = .idle) (op : Cmd) :
    (s.start op).ctl.code = none ∨ (s.start op).ctl.code = some op := by
  rcases s.start_cases op with ⟨u, rfl, -, e⟩ | ⟨u, rfl, e⟩ | ⟨rfl, e⟩ | ⟨-, e⟩ | ⟨-, e⟩ | ⟨-, e⟩ <;>
    rw [e]
  · exact .inr rfl
  · exact .inr rfl
  · exact .inr rfl
  · exact .inl rfl
  · exact .inl rfl
  · exact .inl (by rw [hi]; rfl)

/-! ## What a step can do -/

/-- The state with its trace lines replaced, the next ones first. -/
def State.withInputs (s : State) (rest : List Input) : State := { s with inputs := rest }

theorem step_rx {s : State} {b : Byte} {rest : List Input} (hl : s.inputs = .rx b :: rest) :
    step s = .next ((s.withInputs rest).pushByte b) :=
  step_of_rx hl

/-- The ways a step can answer: a PUSH, a whole operation, the first micro-step of an operation, or
the next micro-step of the one in progress. -/
inductive StepTo (s t : State) : Prop
  | push (b : Byte) (rest : List Input) (hl : s.inputs = .rx b :: rest)
      (ht : t = (s.withInputs rest).pushByte b)
  | whole (op : Cmd) (rest : List Input) (hl : s.inputs = .cmd op :: rest) (hi : s.ctl = .idle)
      (hrun : MicroRun ((s.withInputs rest).start op) t)
  | first (op : Cmd) (rest : List Input) (hl : s.inputs = .micro op :: rest) (hi : s.ctl = .idle)
      (hstep : ((s.withInputs rest).start op).microStep = .next t)
  | onward (rest : List Input) (hl : s.inputs = rest ∨ ∃ op, s.inputs = .micro op :: rest)
      (hstep : (s.withInputs rest).microStep = .next t)

/-- A step, taken apart by its trace line. -/
theorem step_cases {s t : State} (h : step s = .next t) : StepTo s t := by
  cases hl : s.inputs with
  | nil =>
    rw [step_of_nil hl] at h
    exact .onward s.inputs (.inl rfl) h
  | cons l rest =>
    cases l with
    | rx b =>
      exact .push b rest hl (Host.Outcome.next.inj ((step_rx hl).symm.trans h)).symm
    | cmd op =>
      rw [step_of_cmd hl] at h
      obtain ⟨hi, hrun⟩ := exec_cmd_microRun h
      exact .whole op rest hl hi hrun
    | micro op =>
      rw [step_of_micro hl] at h
      rcases State.microLine_cases { s with inputs := rest } op with
        ⟨-, e⟩ | ⟨-, hi, e⟩ | ⟨-, -, -, e⟩ | ⟨-, -, -, e⟩ <;> rw [e] at h
      · cases h
      · exact .first op rest hl hi h
      · exact .onward rest (.inr ⟨op, hl⟩) h
      · cases h

end Sys2Proof.Machine
end

section
/-! Who writes what (10_state.md R15, R17, R24; 20_memory.md R36). -/

namespace Sys2Proof.Machine

/-- Only a PUSH writes a slot. -/
theorem StepTo.buf {s t : State} (h : StepTo s t) (hrx : ∀ b rest, s.inputs ≠ .rx b :: rest) :
    t.buf = s.buf := by
  cases h with
  | push b rest hl => exact absurd hl (hrx b rest)
  | whole op rest hl hi hrun => exact hrun.buf.trans (State.start_buf _ op)
  | first op rest hl hi hstep =>
    exact (State.microStep_frame hstep).2.1.trans (State.start_buf _ op)
  | onward rest hl hstep => exact (State.microStep_frame hstep).2.1

/-- Only a PUSH or a BEGIN writes `HEAD`. -/
theorem StepTo.head {s t : State} (h : StepTo s t) (hrx : ∀ b rest, s.inputs ≠ .rx b :: rest)
    (h8 : s.ctl ≠ .beginHead) (h6 : ∀ rest, s.inputs ≠ .cmd 6#3 :: rest) : t.head = s.head := by
  cases h with
  | push b rest hl => exact absurd hl (hrx b rest)
  | whole op rest hl hi hrun =>
    refine (hrun.head ?_).trans (State.start_head _ op)
    rcases State.start_code (s := s.withInputs rest) hi op with e | e <;> rw [e]
    · exact nofun
    · rintro ⟨⟩
      exact h6 rest hl
  | first op rest hl hi hstep =>
    refine ((State.microStep_frame hstep).2.2.2 ?_).trans (State.start_head _ op)
    rcases State.start_ctl (s := s.withInputs rest) hi op with e | ⟨u, e⟩ | ⟨u, e⟩ | e <;>
      rw [e] <;> exact nofun
  | onward rest hl hstep => exact (State.microStep_frame hstep).2.2.2 h8

/-- Settles O44: `StepTo.buf` and `StepTo.head`; what a PUSH leaves is read off `State.pushByte`. -/
theorem eachFieldHasOneWriter : Obligations.EachFieldHasOneWriter := by
  unfold Obligations.EachFieldHasOneWriter
  intro s t h
  refine ⟨(step_cases h).buf, (step_cases h).head, fun b rest hl => ?_⟩
  rw [step_of_rx hl] at h
  cases h
  simp

/-- Settles O45: a chain of micro-steps writes the flags only inside the three operations that run
the decoder, a single micro-step only at POP.3. -/
theorem onlyTheDecoderWritesTheFlags : Obligations.OnlyTheDecoderWritesTheFlags := by
  unfold Obligations.OnlyTheDecoderWritesTheFlags
  intro s t h hne
  cases step_cases h with
  | push b rest hl ht =>
    rw [ht] at hne
    exact absurd (State.pushByte_flags ..) hne
  | whole op rest hl hi hrun =>
    refine .inl ⟨op, rest, hl, ?_⟩
    by_contra hop
    refine hne ((hrun.flags fun u => ?_).trans (State.start_flags _ op))
    rcases State.start_code (s := s.withInputs rest) hi op with e | e <;> rw [e]
    · exact nofun
    · rintro ⟨⟩
      cases u <;> simp [DecodeUser.code] at hop
  | first op rest hl hi hstep =>
    refine absurd ?_ hne
    refine ((State.moves_of_microStep hstep).flags fun u w => ?_).trans (State.start_flags _ op)
    rcases State.start_ctl (s := s.withInputs rest) hi op with e | ⟨u, e⟩ | ⟨u, e⟩ | e <;>
      rw [e] <;> exact nofun
  | onward rest hl hstep =>
    by_contra hno
    exact hne ((State.moves_of_microStep hstep).flags fun u w hc => hno (.inr ⟨u, w, hc⟩))

/-- PUSH tests and writes the ring alone, whatever the consumer's private fields hold. -/
theorem State.pushByte_withConsumer (s : State) (b : Byte) (f : Flags) (c : Byte) (v : Bool)
    (r : Response) (q : List CfgRequest) :
    State.pushByte { s with flags := f, cache := c, cacheValid := v, rsp := r, cfgOut := q } b =
      { s.pushByte b with flags := f, cache := c, cacheValid := v, rsp := r, cfgOut := q } := by
  by_cases h : s.nextHead = s.tail
  · rw [State.pushByte_of_full h]
    exact if_pos h
  · rw [State.pushByte_of_room h]
    exact if_neg h

/-- Settles O46, by `State.pushByte_withConsumer`. -/
theorem pushIsBlindToConsumerState : Obligations.PushIsBlindToConsumerState := by
  unfold Obligations.PushIsBlindToConsumerState
  exact fun s b f c v r q =>
    ⟨s.pushByte b, rfl, congrArg Host.Outcome.next (s.pushByte_withConsumer b f c v r q)⟩

end Sys2Proof.Machine
end

section
/-! The invariant: it holds at reset, every micro-step, every issued operation and every PUSH keeps
it, and so every step does. -/

namespace Sys2Proof.Machine

/-! ## The invariant without the operation in progress -/

/-- What the invariant says of everything but the operation in progress. -/
structure State.Sound (s : State) : Prop where
  cfg_wf : s.cfg.wf = true
  head_lt : s.head < s.cfg.N
  tail_lt : s.tail < s.cfg.N
  buf_wf : s.buf.wf = true
  buf_below : s.buf.below s.cfg.N = true
  cache_ne : s.cacheValid = true → s.cache ≠ 0#8
  rsp_ne : s.rsp ≠ .char (.char 0#8)

theorem State.inv_iff_sound (s : State) : s.inv = true ↔ s.Sound ∧ s.ctlInv = true := by
  rw [State.inv_iff]
  constructor
  · rintro ⟨h1, h2, h3, h4, h5, h6, h7, h8⟩
    exact ⟨⟨h1, h2, h3, h4, h5, h6, h7⟩, h8⟩
  · rintro ⟨⟨h1, h2, h3, h4, h5, h6, h7⟩, h8⟩
    exact ⟨h1, h2, h3, h4, h5, h6, h7, h8⟩

/-! ## What the invariant says of the operation in progress, place by place -/

theorem State.ctlInv_of_idle {s : State} (h : s.ctl = .idle) : s.ctlInv = true := by
  simp [State.ctlInv, h]

theorem State.ctlInv_popHead {s : State} {u : PopUser} (h : s.ctl = .popHead u) :
    s.ctlInv = true ↔ s.cacheFreeFor u = true := by
  simp [State.ctlInv, h]

theorem State.ctlInv_popSlot {s : State} {u : PopUser} (h : s.ctl = .popSlot u) :
    s.ctlInv = true ↔ s.head ≠ s.tail ∧ s.cacheFreeFor u = true := by
  simp [State.ctlInv, h]

theorem State.ctlInv_popTail {s : State} {u : PopUser} {b : Byte} (h : s.ctl = .popTail u b) :
    s.ctlInv = true ↔ s.head ≠ s.tail ∧ b = s.peekByte ∧ s.cacheFreeFor u = true := by
  simp [State.ctlInv, h, and_assoc]

theorem State.ctlInv_clearTail {s : State} {u : ClearUser} {i : Nat} (h : s.ctl = .clearTail u i) :
    s.ctlInv = true ↔ i < s.cfg.N ∧ (i + s.cfg.N - s.tail) % s.cfg.N ≤ s.occupancy := by
  simp [State.ctlInv, h]

theorem State.ctlInv_beginTail {s : State} (h : s.ctl = .beginTail) :
    s.ctlInv = true ↔ s.head < s.tail ∨ s.tail = 0 := by
  simp [State.ctlInv, h]

/-- Whether the cache is free for an operation depends on `CACHE_VALID` alone. -/
theorem State.cacheFreeFor_congr {s t : State} (h : t.cacheValid = s.cacheValid) (u : PopUser) :
    t.cacheFreeFor u = s.cacheFreeFor u := by
  cases u with
  | direct => rfl
  | word u => cases u <;> simp [State.cacheFreeFor, h]

namespace State.Sound

variable {s : State}

theorem two_le (h : s.Sound) : 2 ≤ s.cfg.N := Config.two_le_N h.cfg_wf

theorem ring (h : s.Sound) : s.Ring := ⟨h.two_le, h.head_lt, h.tail_lt⟩

theorem inv_of_idle (h : s.Sound) (hi : s.ctl = .idle) : s.inv = true :=
  s.inv_iff_sound.2 ⟨h, State.ctlInv_of_idle hi⟩

/-- The operation in progress, the flags, the requests and the trace lines are free. -/
theorem withRest (h : s.Sound) (c : Ctl) (f : Flags) (q : List CfgRequest) (l : List Input) :
    ({ s with ctl := c, flags := f, cfgOut := q, inputs := l } : State).Sound :=
  ⟨h.cfg_wf, h.head_lt, h.tail_lt, h.buf_wf, h.buf_below, h.cache_ne, h.rsp_ne⟩

theorem finish (h : s.Sound) {r : Response} (hr : r ≠ .char (.char 0#8)) : (s.finish r).Sound :=
  ⟨h.cfg_wf, h.head_lt, h.tail_lt, h.buf_wf, h.buf_below, h.cache_ne, hr⟩

theorem inv_finish (h : s.Sound) {r : Response} (hr : r ≠ .char (.char 0#8)) :
    (s.finish r).inv = true := (h.finish hr).inv_of_idle rfl

theorem setTail (h : s.Sound) {i : Nat} (hi : i < s.cfg.N) : (s.setTail i).Sound :=
  ⟨h.cfg_wf, h.head_lt, hi, h.buf_wf, h.buf_below, h.cache_ne, h.rsp_ne⟩

theorem setHead (h : s.Sound) {i : Nat} (hi : i < s.cfg.N) : ({ s with head := i } : State).Sound :=
  ⟨h.cfg_wf, hi, h.tail_lt, h.buf_wf, h.buf_below, h.cache_ne, h.rsp_ne⟩

theorem advanceTail (h : s.Sound) : s.advanceTail.Sound := h.setTail (State.nextTail_lt h.two_le)

theorem setCache (h : s.Sound) {c : Byte} {v : Bool} (hc : v = true → c ≠ 0#8) :
    ({ s with cache := c, cacheValid := v } : State).Sound :=
  ⟨h.cfg_wf, h.head_lt, h.tail_lt, h.buf_wf, h.buf_below, hc, h.rsp_ne⟩

theorem takeCached (h : s.Sound) (hv : s.cacheValid = true) : s.takeCached.Sound :=
  (h.setCache (c := s.cache) (v := false) nofun).finish (by simpa using h.cache_ne hv)

theorem endClear (h : s.Sound) (u : ClearUser) : (s.endClear u).Sound := by
  cases u with
  | clear => exact h.finish nofun
  | flush =>
    refine State.Sound.finish ?_ nofun
    unfold State.flushCache
    split
    · exact h.setCache nofun
    · exact h

theorem answerEmpty (h : s.Sound) (u : PopUser) : (s.answerEmpty u).Sound := by
  cases u with
  | direct => exact h.finish nofun
  | word u => cases u <;> exact h.finish nofun

theorem answerChar (h : s.Sound) {c : Byte} (hc : c ≠ 0#8) (u : DecodeUser) :
    (s.answerChar c u).Sound := by
  cases u
  case decode | read => exact h.finish (by simpa using hc)
  case available => exact (h.setCache fun _ => hc).finish nofun

theorem pushByte (h : s.Sound) (b : Byte) : (s.pushByte b).Sound := by
  have hlt : s.nextHead < s.cfg.N := State.nextHead_lt h.two_le
  by_cases hfull : s.nextHead = s.tail
  · rwa [State.pushByte_of_full hfull]
  · rw [State.pushByte_of_room hfull]
    exact ⟨h.cfg_wf, hlt, h.tail_lt, Memory.wf_write h.buf_wf _ b,
      Memory.below_write h.buf_below b hlt, h.cache_ne, h.rsp_ne⟩

theorem inv_withCtl (h : s.Sound) (c : Ctl) (hc : ({ s with ctl := c } : State).ctlInv = true) :
    ({ s with ctl := c } : State).inv = true :=
  (State.inv_iff_sound _).2 ⟨h.withRest c s.flags s.cfgOut s.inputs, hc⟩

/-- A word ends in a sound state: the byte returned is not 0, and a loop that goes on runs for an
operation whose cache is still free. -/
theorem inv_wordDone (h : s.Sound) (w : Byte)
    (hfree : s.cacheFreeFor (.word s.ctl.decodeUser) = true) : (s.wordDone w).inv = true := by
  have hf : ({ s with flags := (Spec.word s.cfg s.flags w).1 } : State).Sound := h.withRest ..
  unfold State.wordDone
  by_cases h0 : (Spec.word s.cfg s.flags w).2.getD 0#8 = 0#8
  · rw [h0, State.emit_zero]
    exact (State.inv_iff_sound _).2 ⟨hf.withRest .., hfree⟩
  · rw [State.emit_of_ne h0]
    exact (hf.answerChar h0 _).inv_of_idle (State.answerChar_ctl ..)

end State.Sound

/-! ## The operations keep the invariant -/

/-- A micro-step keeps the invariant. -/
theorem State.Moves.keeps_inv {s t : State} (h : s.Moves t) (hs : s.inv = true) : t.inv = true := by
  obtain ⟨hS, hL⟩ := s.inv_iff_sound.1 hs
  have hpos : 0 < s.cfg.N := Nat.zero_lt_of_lt hS.head_lt
  cases h
  case stay => exact hs
  case empty u hc he => exact (hS.answerEmpty u).inv_of_idle (State.answerEmpty_ctl ..)
  case nonempty u hc hne =>
    have hfree := (State.ctlInv_popHead hc).1 hL
    exact hS.inv_withCtl _ ((State.ctlInv_popSlot rfl).2 ⟨hne, State.cacheFreeFor_congr rfl u ▸ hfree⟩)
  case slot u hc =>
    obtain ⟨hne, hfree⟩ := (State.ctlInv_popSlot hc).1 hL
    exact hS.inv_withCtl _
      ((State.ctlInv_popTail rfl).2 ⟨hne, rfl, State.cacheFreeFor_congr rfl u ▸ hfree⟩)
  case byte b hc => exact hS.advanceTail.inv_finish nofun
  case word u b hc =>
    obtain ⟨-, -, hfree⟩ := (State.ctlInv_popTail hc).1 hL
    refine hS.advanceTail.inv_wordDone b ?_
    rwa [State.advanceTail_ctl, hc]
  case clearHead u hc =>
    exact hS.inv_withCtl _ ((State.ctlInv_clearTail rfl).2 ⟨hS.head_lt, le_rfl⟩)
  case clearTail u i hc =>
    obtain ⟨hi, -⟩ := (State.ctlInv_clearTail hc).1 hL
    exact ((hS.setTail hi).endClear u).inv_of_idle (State.endClear_ctl ..)
  case beginCfg hc => exact (State.inv_iff_sound _).2 ⟨hS.withRest .., rfl⟩
  case beginHead hc =>
    exact (hS.setHead hpos).inv_withCtl _ ((State.ctlInv_beginTail rfl).2 (Nat.eq_zero_or_pos _).symm)
  case beginTail hc => exact (hS.setTail hpos).inv_finish nofun

theorem MicroRun.keeps_inv {s t : State} (h : MicroRun s t) (hs : s.inv = true) : t.inv = true :=
  h.keeps (P := fun a => a.inv = true)
    (fun _ _ ha hab => (State.moves_of_microStep hab).keeps_inv ha) hs

/-- Issuing an operation keeps the invariant. -/
theorem State.inv_start {s : State} (hs : s.inv = true) (op : Cmd) : (s.start op).inv = true := by
  have hS := (s.inv_iff_sound.1 hs).1
  rcases s.start_cases op with ⟨u, -, hfree, e⟩ | ⟨u, -, e⟩ | ⟨-, e⟩ | ⟨-, e⟩ | ⟨hv, e⟩ | ⟨-, e⟩ <;>
    rw [e]
  · exact hS.inv_withCtl _ hfree
  · exact hS.inv_withCtl _ rfl
  · exact hS.inv_withCtl _ rfl
  · exact hS.inv_finish nofun
  · exact (hS.takeCached hv).inv_of_idle rfl
  · exact hs

theorem State.inv_withInputs {s : State} (hs : s.inv = true) (rest : List Input) :
    (s.withInputs rest).inv = true := hs

/-! ## A PUSH keeps the locals of the operation in progress -/

/-- The slot a PUSH with room writes is not the one a POP of a non-empty ring reads. -/
theorem State.peekByte_pushByte {s : State} (hS : s.Sound) (hne : s.head ≠ s.tail) (b : Byte) :
    (s.pushByte b).peekByte = s.peekByte := by
  have hslot : s.nextTail ≠ s.nextHead := by
    have := hS.head_lt
    have := hS.tail_lt
    rw [State.nextTail, State.nextHead, State.succIndex_of_lt hS.tail_lt,
      State.succIndex_of_lt hS.head_lt]
    split <;> split <;> omega
  by_cases hfull : s.nextHead = s.tail
  · rw [State.pushByte_of_full hfull]
  · rw [State.pushByte_of_room hfull]
    exact (Memory.read_write hS.buf_wf ..).trans (if_neg hslot)

/-- A PUSH leaves a non-empty ring non-empty. -/
theorem State.head_ne_tail_pushByte {s : State} (hne : s.head ≠ s.tail) (b : Byte) :
    (s.pushByte b).head ≠ (s.pushByte b).tail := by
  rw [State.pushByte_head, State.pushByte_tail]
  split <;> assumption

/-- A PUSH takes no byte from the unread run. -/
theorem State.occupancy_le_pushByte {s : State} (hS : s.Sound) (b : Byte) :
    s.occupancy ≤ (s.pushByte b).occupancy := by
  rw [← State.length_unread, ← State.length_unread, State.unread_pushByte hS.ring hS.buf_wf]
  split <;> simp

/-- While the old `TAIL` of a BEGIN stands, `HEAD` goes from 0 towards it and never past (R158). -/
theorem State.nextHead_lt_tail {s : State} (hS : s.Sound) (hroom : s.nextHead ≠ s.tail)
    (hlt : s.head < s.tail) : s.nextHead = s.head + 1 ∧ s.head + 1 < s.tail := by
  have := hS.tail_lt
  rw [State.nextHead, State.succIndex_of_lt hS.head_lt] at hroom ⊢
  split at hroom
  · omega
  · rw [if_neg ‹_›]
    omega

/-- A PUSH keeps what the invariant says of the consumer operation it comes between. -/
theorem State.ctlInv_pushByte {s : State} (hs : s.inv = true) (b : Byte) :
    (s.pushByte b).ctlInv = true := by
  obtain ⟨hS, hL⟩ := s.inv_iff_sound.1 hs
  have hctl := s.pushByte_ctl b
  have hfree := State.cacheFreeFor_congr (s.pushByte_cacheValid b)
  cases hc : s.ctl <;> rw [hc] at hctl
  case idle => exact State.ctlInv_of_idle hctl
  case popHead u => rwa [State.ctlInv_popHead hctl, hfree, ← State.ctlInv_popHead hc]
  case popSlot u =>
    obtain ⟨hne, hu⟩ := (State.ctlInv_popSlot hc).1 hL
    exact (State.ctlInv_popSlot hctl).2 ⟨State.head_ne_tail_pushByte hne b, (hfree u).trans hu⟩
  case popTail u w =>
    obtain ⟨hne, hw, hu⟩ := (State.ctlInv_popTail hc).1 hL
    exact (State.ctlInv_popTail hctl).2 ⟨State.head_ne_tail_pushByte hne b,
      hw.trans (State.peekByte_pushByte hS hne b).symm, (hfree u).trans hu⟩
  case clearHead u => simp only [State.ctlInv, hctl]
  case clearTail u i =>
    obtain ⟨hi, hle⟩ := (State.ctlInv_clearTail hc).1 hL
    rw [State.ctlInv_clearTail hctl, State.pushByte_cfg, State.pushByte_tail]
    exact ⟨hi, hle.trans (State.occupancy_le_pushByte hS b)⟩
  case beginCfg | beginHead => simp only [State.ctlInv, hctl]
  case beginTail =>
    rw [State.ctlInv_beginTail hctl, State.pushByte_head, State.pushByte_tail]
    split
    · exact (State.ctlInv_beginTail hc).1 hL
    · refine ((State.ctlInv_beginTail hc).1 hL).imp_left fun hlt => ?_
      obtain ⟨hn, hlt'⟩ := State.nextHead_lt_tail hS ‹_› hlt
      exact hn ▸ hlt'

theorem State.inv_pushByte {s : State} (hs : s.inv = true) (b : Byte) : (s.pushByte b).inv = true :=
  (State.inv_iff_sound _).2 ⟨(s.inv_iff_sound.1 hs).1.pushByte b, State.ctlInv_pushByte hs b⟩

/-! ## The statements -/

theorem StepTo.keeps_inv {s t : State} (h : StepTo s t) (hs : s.inv = true) : t.inv = true := by
  cases h with
  | push b rest hl ht => exact ht ▸ State.inv_pushByte (State.inv_withInputs hs rest) b
  | whole op rest hl hi hrun =>
    exact hrun.keeps_inv (State.inv_start (State.inv_withInputs hs rest) op)
  | first op rest hl hi hstep =>
    exact (State.moves_of_microStep hstep).keeps_inv (State.inv_start (State.inv_withInputs hs rest) op)
  | onward rest hl hstep =>
    exact (State.moves_of_microStep hstep).keeps_inv (State.inv_withInputs hs rest)

/-- Settles O3: a PUSH, an issued operation and every micro-step keep the invariant. -/
theorem stepKeepsTheInvariant : Obligations.StepKeepsTheInvariant := by
  unfold Obligations.StepKeepsTheInvariant
  exact fun s t hs h => (step_cases h).keeps_inv hs

set_option maxRecDepth 2000 in -- the lookup tables have 128 entries each
/-- The default parameters are a configuration R3 admits. -/
theorem config_default_wf : Config.default.wf = true := by decide

/-- Settles O2: the default configuration is admitted, and nothing is stored, cached or answered. -/
theorem resetMeetsTheInvariant : Obligations.ResetMeetsTheInvariant := by
  unfold Obligations.ResetMeetsTheInvariant
  have hN : 0 < Config.default.N := Nat.zero_lt_of_lt (Config.two_le_N config_default_wf)
  have hS : State.reset.Sound := ⟨config_default_wf, hN, hN, rfl, rfl, nofun, nofun⟩
  exact hS.inv_of_idle rfl

/-- Settles O17, by the laws of the ring. -/
theorem usableCapacityIsNMinusOne : Obligations.UsableCapacityIsNMinusOne := by
  unfold Obligations.UsableCapacityIsNMinusOne
  intro s hs
  have r := State.ring_of_inv hs
  exact ⟨Nat.le_sub_one_of_lt (State.occupancy_lt r), (State.full_iff r).symm,
    State.occupancy_eq_zero_iff r, s.length_unread⟩

end Sys2Proof.Machine
end

section
/-! What no step can show (10_state.md R28): the slots outside the unread run, and `CACHE` while
`CACHE_VALID` is 0. A state is compared with one in disguise: over another storage, and with another
byte in an empty cache. The consumer cannot tell the two apart, and a PUSH looks at neither. -/

namespace Sys2Proof.Machine

/-! ## The visible bytes -/

theorem State.visible_of_ne {s : State} (h : s.ctl ≠ .beginTail) : s.visible = s.unread := if_neg h

theorem State.visible_of_beginTail {s : State} (h : s.ctl = .beginTail) :
    s.visible = ({ s with tail := 0 } : State).unread := if_pos h

/-- How many bytes are visible does not depend on the storage. -/
theorem State.length_visible_withBuf (s : State) (m : Memory) :
    ({ s with buf := m } : State).visible.length = s.visible.length := by
  unfold State.visible
  split <;> rw [State.length_unread, State.length_unread] <;> rfl

theorem State.unread_advanceTail_suffix {s : State} (r : s.Ring) (hne : s.head ≠ s.tail) :
    s.advanceTail.unread <:+ s.unread := by
  rw [State.unread_eq_cons r hne]
  exact List.suffix_cons ..

/-- A micro-step takes visible bytes from the old end only, and shows no other. -/
theorem State.Moves.visible_suffix {s t : State} (h : s.Moves t) (hs : s.inv = true) :
    t.visible <:+ s.visible := by
  obtain ⟨hS, hL⟩ := s.inv_iff_sound.1 hs
  have same {a : State} (hne : s.ctl ≠ .beginTail) (hne' : a.ctl ≠ .beginTail)
      (hu : a.unread <:+ s.unread) : a.visible <:+ s.visible := by
    rwa [State.visible_of_ne hne, State.visible_of_ne hne']
  cases h
  case stay => exact List.suffix_rfl
  case empty u hc he =>
    refine same (by simp [hc]) (by simp) ?_
    rw [State.unread_congr (s := s) (by simp) (by simp) (by simp) (by simp)]
  case nonempty u hc _ | slot u hc | clearHead u hc | beginCfg hc =>
    exact same (by simp [hc]) (by simp) List.suffix_rfl
  case byte b hc =>
    obtain ⟨hne, -⟩ := (State.ctlInv_popTail hc).1 hL
    exact same (by simp [hc]) (by simp) (State.unread_advanceTail_suffix hS.ring hne)
  case word u b hc =>
    obtain ⟨hne, -⟩ := (State.ctlInv_popTail hc).1 hL
    refine same (by simp [hc]) ?_ ?_
    · rcases s.advanceTail.wordDone_ctl b with e | e <;> simp [e]
    · rw [State.unread_congr (s := s.advanceTail) (by simp) (by simp) (by simp) (by simp)]
      exact State.unread_advanceTail_suffix hS.ring hne
  case clearTail u i hc =>
    obtain ⟨hi, hle⟩ := (State.ctlInv_clearTail hc).1 hL
    refine same (by simp [hc]) (by simp) ?_
    rw [State.unread_congr (s := s.setTail i) (by simp) (by simp) (by simp) (by simp),
      State.unread_setTail hS.ring hi hle]
    exact List.drop_suffix ..
  case beginHead hc =>
    rw [State.visible_of_beginTail rfl, State.unread_of_empty rfl]
    exact List.nil_suffix
  case beginTail hc =>
    rw [State.visible_of_beginTail hc]
    exact List.suffix_rfl

theorem MicroRun.visible_suffix {s t : State} (h : MicroRun s t) (hs : s.inv = true) :
    t.visible <:+ s.visible := by
  refine (h.keeps (P := fun a => a.inv = true ∧ a.visible <:+ s.visible) ?_ ⟨hs, List.suffix_rfl⟩).2
  rintro a b ⟨ha, hv⟩ hab
  have hmove := State.moves_of_microStep hab
  exact ⟨hmove.keeps_inv ha, (hmove.visible_suffix ha).trans hv⟩

/-- Issuing an operation takes no byte. -/
theorem State.visible_start {s : State} (hi : s.ctl = .idle) (op : Cmd) :
    (s.start op).visible = s.visible := by
  have hctl : (s.start op).ctl ≠ .beginTail := by
    rcases s.start_ctl hi op with e | ⟨u, e⟩ | ⟨u, e⟩ | e <;> rw [e] <;> exact nofun
  rw [State.visible_of_ne hctl, State.visible_of_ne (by rw [hi]; exact nofun)]
  exact State.unread_congr (by simp) (by simp) (by simp) (by simp)

/-- A step of the consumer takes visible bytes from the old end only. -/
theorem StepTo.visible_suffix {s t : State} (h : StepTo s t) (hs : s.inv = true)
    (hrx : ∀ b rest, s.inputs ≠ .rx b :: rest) : t.visible <:+ s.visible := by
  cases h with
  | push b rest hl => exact absurd hl (hrx b rest)
  | whole op rest hl hi hrun =>
    exact State.visible_start (s := s.withInputs rest) hi op ▸ hrun.visible_suffix 
        (State.inv_start (State.inv_withInputs hs rest) op)
  | first op rest hl hi hstep =>
    exact State.visible_start (s := s.withInputs rest) hi op ▸
      (State.moves_of_microStep hstep).visible_suffix 
        (State.inv_start (State.inv_withInputs hs rest) op)
  | onward rest hl hstep => exact (State.moves_of_microStep hstep).visible_suffix hs

/-- A PUSH with room shows its byte behind the visible ones, inside a BEGIN too. -/
theorem State.visible_pushByte {s : State} (hs : s.inv = true) (b : Byte) :
    (s.pushByte b).visible = if s.nextHead = s.tail then s.visible else s.visible ++ [b] := by
  obtain ⟨hS, hL⟩ := s.inv_iff_sound.1 hs
  split
  case isTrue hfull => rw [State.pushByte_of_full hfull]
  case isFalse hroom =>
    by_cases hc : s.ctl = .beginTail
    · have hnext : s.nextHead ≠ 0 := by
        rcases (State.ctlInv_beginTail hc).1 hL with hlt | h0
        · obtain ⟨hn, -⟩ := State.nextHead_lt_tail hS hroom hlt
          omega
        · exact h0 ▸ hroom
      have hpush : ({ s.pushByte b with tail := 0 } : State) =
          ({ s with tail := 0 } : State).pushByte b := by
        rw [State.pushByte_of_room hroom]
        exact (State.pushByte_of_room (s := { s with tail := 0 }) hnext b).symm
      rw [State.visible_of_beginTail ((s.pushByte_ctl b).trans hc), State.visible_of_beginTail hc,
        hpush]
      have hpos : 0 < s.cfg.N := Nat.zero_lt_of_lt hS.head_lt
      exact State.unread_pushByte_room (hS.setTail hpos).ring hS.buf_wf b hnext
    · rw [State.visible_of_ne hc, State.visible_of_ne ((s.pushByte_ctl b).trans_ne hc)]
      exact State.unread_pushByte_room hS.ring hS.buf_wf b hroom

/-! ## A state in disguise -/

/-- A function of the state on the next state of an outcome. -/
def mapNext (f : State → State) : Out → Out
  | .next t => .next (f t)
  | .fault r => .fault r
  | .refused r => .refused r

/-- The same state over the storage `m`, and with `c` in the cache if it is empty. -/
def State.disguise (m : Memory) (c : Byte) (s : State) : State :=
  { s with buf := m, cache := if s.cacheValid = true then s.cache else c }

/-- Every read of a slot the consumer can still make gives the same byte from `m`. -/
def ReadsAlike (m : Memory) (s : State) : Prop :=
  m = s.buf ∨ s.Ring ∧ ({ s with buf := m } : State).unread = s.unread

theorem ReadsAlike.unread_eq_cons {m : Memory} {s : State} (r : s.Ring) (hne : s.head ≠ s.tail) :
    ({ s with buf := m } : State).unread =
      m.read s.nextTail :: ({ s.advanceTail with buf := m } : State).unread :=
  State.unread_eq_cons (s := { s with buf := m }) ⟨r.two_le, r.head_lt, r.tail_lt⟩ hne

theorem ReadsAlike.peekByte {m : Memory} {s : State} (h : ReadsAlike m s) (hne : s.head ≠ s.tail) :
    m.read s.nextTail = s.peekByte := by
  rcases h with rfl | ⟨r, hu⟩
  · rfl
  · rw [ReadsAlike.unread_eq_cons r hne, State.unread_eq_cons r hne] at hu
    exact (List.cons.inj hu).1

theorem ReadsAlike.advanceTail {m : Memory} {s : State} (h : ReadsAlike m s)
    (hne : s.head ≠ s.tail) : ReadsAlike m s.advanceTail := by
  rcases h with rfl | ⟨r, hu⟩
  · exact .inl rfl
  · rw [ReadsAlike.unread_eq_cons r hne, State.unread_eq_cons r hne] at hu
    exact .inr ⟨State.ring_advanceTail r, (List.cons.inj hu).2⟩

theorem ReadsAlike.congr {m : Memory} {s t : State} (h : ReadsAlike m s) (hcfg : t.cfg = s.cfg)
    (hbuf : t.buf = s.buf) (hhead : t.head = s.head) (htail : t.tail = s.tail) : ReadsAlike m t := by
  rcases h with rfl | ⟨r, hu⟩
  · exact .inl hbuf.symm
  · refine .inr ⟨⟨hcfg ▸ r.two_le, ?_, ?_⟩, ?_⟩
    · rw [hcfg, hhead]
      exact r.head_lt
    · rw [hcfg, htail]
      exact r.tail_lt
    · rw [State.unread_congr hcfg hbuf hhead htail, ← hu]
      exact State.unread_congr hcfg rfl hhead htail

section
variable (m : Memory) (c : Byte) (s : State)

/-! ## The operations on a state in disguise -/

theorem State.disguise_answerNone (u : DecodeUser) :
    (s.disguise m c).answerNone u = (s.answerNone u).disguise m c := by
  cases u <;> rfl

theorem State.disguise_answerEmpty (u : PopUser) :
    (s.disguise m c).answerEmpty u = (s.answerEmpty u).disguise m c := by
  cases u with
  | direct => rfl
  | word u => exact s.disguise_answerNone m c u

/-- A character that AVAILABLE keeps takes the place of whatever the empty cache held. -/
theorem State.disguise_answerChar (b : Byte) (u : DecodeUser) :
    (s.disguise m c).answerChar b u = (s.answerChar b u).disguise m c := by
  cases u <;> rfl

theorem State.disguise_emit (b : Byte) :
    (s.disguise m c).emit b = (s.emit b).disguise m c := by
  unfold State.emit
  split
  · rfl
  · exact s.disguise_answerChar m c b s.ctl.decodeUser

theorem State.disguise_wordDone (w : Byte) :
    (s.disguise m c).wordDone w = (s.wordDone w).disguise m c :=
  State.disguise_emit m c { s with flags := (Spec.word s.cfg s.flags w).1 } _

theorem State.disguise_whenIdle {run run' : Out}
    (h : s.ctl = .idle → run' = mapNext (State.disguise m c) run) :
    (s.disguise m c).whenIdle run' = mapNext (State.disguise m c) (s.whenIdle run) := by
  by_cases hi : s.ctl = .idle
  · rw [State.whenIdle_of_idle hi, ← h hi]
    exact State.whenIdle_of_idle hi _
  · rw [State.whenIdle_of_busy hi]
    exact State.whenIdle_of_busy hi _

variable {m s}

/-- The decoder's loop sees only the words it pops. -/
theorem decodeLoop_disguise (h : ReadsAlike m s) (n : Nat) :
    decodeLoop n (s.disguise m c) = mapNext (State.disguise m c) (decodeLoop n s) := by
  induction n generalizing s with
  | zero => rfl
  | succ n ih =>
    unfold decodeLoop
    by_cases he : s.head = s.tail
    · rw [if_pos he, if_pos (show (s.disguise m c).head = (s.disguise m c).tail from he)]
      exact congrArg _ (s.disguise_answerNone m c _)
    rw [if_neg he, if_neg (show (s.disguise m c).head ≠ (s.disguise m c).tail from he)]
    have hpeek : (s.disguise m c).peekByte = s.peekByte := h.peekByte he
    have hdone : (s.disguise m c).advanceTail.wordDone s.peekByte =
        (s.advanceTail.wordDone s.peekByte).disguise m c := s.advanceTail.disguise_wordDone m c _
    rw [hpeek, runWord_eq_word, runWord_eq_word, hdone]
    by_cases hi : (s.advanceTail.wordDone s.peekByte).ctl = .idle
    · simp only [if_pos hi]
      exact if_pos hi
    · simp only [if_neg hi]
      exact (if_neg hi).trans (ih ((h.advanceTail he).congr (by simp) (by simp) (by simp) (by simp)))

theorem State.disguise_runDecoder (h : ReadsAlike m s) (u : DecodeUser) :
    (s.disguise m c).runDecoder u = mapNext (State.disguise m c) (s.runDecoder u) :=
  decodeLoop_disguise (s := { s with ctl := .popHead (.word u) }) c (h.congr rfl rfl rfl rfl) s.cfg.N

variable {c} (hc : s.cacheValid = true → c = s.cache)
include hc

theorem State.disguise_takeCached (hv : s.cacheValid = true) :
    (s.disguise m c).takeCached = s.takeCached.disguise m c := by
  simp [State.disguise, State.takeCached, State.finish, hv, hc hv]

theorem State.disguise_endClear (u : ClearUser) :
    (s.disguise m c).endClear u = (s.endClear u).disguise m c := by
  cases u with
  | clear => rfl
  | flush =>
    cases hf : s.cfg.flushClearsCache <;> cases hv : s.cacheValid <;>
      simp [State.endClear, State.flushCache, State.finish, State.disguise, hf, hv, hc]

theorem State.disguise_start (op : Cmd) :
    (s.disguise m c).start op = (s.start op).disguise m c := by
  rcases cmd_cases op with rfl | rfl | rfl | rfl | rfl | rfl | rfl | rfl
  case inr.inr.inr.inl =>
    rw [State.start_available, State.start_available]
    cases hv : s.cacheValid <;> simp [State.disguise, State.finish, hv]
  case inr.inr.inr.inr.inl =>
    rw [State.start_read, State.start_read]
    by_cases hv : s.cacheValid = true
    · rw [if_pos hv, ← State.disguise_takeCached hc hv]
      exact if_pos hv
    · rw [if_neg hv]
      exact if_neg hv
  all_goals rfl

/-- A whole operation sees only the unread bytes and a valid cache. -/
theorem exec_cmd_disguise (h : s.ctl = .idle → ReadsAlike m s) (op : Cmd) :
    exec (decodeCmd op) (s.disguise m c) = mapNext (State.disguise m c) (exec (decodeCmd op) s) := by
  rcases cmd_cases op with rfl | rfl | rfl | rfl | rfl | rfl | rfl | rfl
  case inr.inr.inr.inr.inr.inr.inr => rfl
  all_goals refine State.disguise_whenIdle m c s fun hi => ?_
  case inl =>
    by_cases he : s.head = s.tail
    · rw [if_pos he]
      exact congrArg _ (if_pos he)
    · have hpeek : (s.disguise m c).peekByte = s.peekByte := (h hi).peekByte he
      rw [if_neg he, hpeek]
      exact congrArg _ (if_neg he)
  case inr.inl | inr.inr.inr.inr.inr.inr.inl => rfl
  case inr.inr.inl => exact State.disguise_runDecoder c (h hi) .decode
  case inr.inr.inr.inl =>
    by_cases hv : s.cacheValid = true
    · rw [if_pos hv]
      exact if_pos hv
    · rw [if_neg hv, ← State.disguise_runDecoder c (h hi)]
      exact if_neg hv
  case inr.inr.inr.inr.inl =>
    by_cases hv : s.cacheValid = true
    · rw [if_pos hv, mapNext, ← State.disguise_takeCached hc hv]
      exact if_pos hv
    · rw [if_neg hv, ← State.disguise_runDecoder c (h hi)]
      exact if_neg hv
  case inr.inr.inr.inr.inr.inl =>
    exact congrArg _ (State.disguise_endClear (s := s.setTail s.head) hc .flush)

/-- A micro-step sees only the slot POP.2 reads and a valid cache. -/
theorem State.disguise_microStep
    (hslot : ∀ u, s.ctl = .popSlot u → m.read s.nextTail = s.peekByte) :
    (s.disguise m c).microStep = mapNext (State.disguise m c) s.microStep := by
  have hctl : (s.disguise m c).ctl = s.ctl := rfl
  cases hs : s.ctl <;> rw [hs] at hctl <;> simp only [State.microStep, hs, hctl, mapNext]
  case popHead u =>
    by_cases he : s.head = s.tail
    · rw [if_pos he, ← State.disguise_answerEmpty]
      exact congrArg _ (if_pos he)
    · rw [if_neg he]
      exact congrArg _ (if_neg he)
  case popSlot u =>
    have hpeek : (s.disguise m c).peekByte = s.peekByte := hslot u hs
    rw [hpeek]
    rfl
  case popTail u b =>
    cases u with
    | direct => rfl
    | word u =>
      simp only [State.popped, runWord_eq_word]
      exact congrArg _ (s.advanceTail.disguise_wordDone m c b)
  case clearTail u i => exact congrArg _ (State.disguise_endClear (s := s.setTail i) hc u)
  all_goals rfl

/-- A line of micro-step sees no more. -/
theorem State.disguise_microLine
    (hslot : ∀ u, s.ctl = .popSlot u → m.read s.nextTail = s.peekByte) (op : Cmd) :
    (s.disguise m c).microLine op = mapNext (State.disguise m c) (s.microLine op) := by
  unfold State.microLine
  by_cases h7 : op = 7#3
  · rw [if_pos h7, if_pos h7]
    rfl
  rw [if_neg h7, if_neg h7, show (s.disguise m c).ctl = s.ctl from rfl]
  by_cases hi : s.ctl = .idle
  · rw [if_pos hi, if_pos hi, State.disguise_start hc]
    refine State.disguise_microStep ?_ ?_
    · exact fun hv => (hc (State.cacheValid_of_start hv)).trans (State.start_cache s op).symm
    · intro u hu
      rcases State.start_ctl hi op with e | ⟨u, e⟩ | ⟨u, e⟩ | e <;> cases e.symm.trans hu
  rw [if_neg hi, if_neg hi]
  by_cases hcode : s.ctl.code = some op
  · rw [if_pos hcode, if_pos hcode]
    exact State.disguise_microStep hc hslot
  · rw [if_neg hcode, if_neg hcode]
    rfl

/-- A step of the consumer sees only the bytes still to be read and a valid cache. -/
theorem step_disguise (hrx : ∀ b rest, s.inputs ≠ .rx b :: rest)
    (hread : s.ctl = .idle → ReadsAlike m s)
    (hslot : ∀ u, s.ctl = .popSlot u → m.read s.nextTail = s.peekByte) :
    step (s.disguise m c) = mapNext (State.disguise m c) (step s) := by
  cases hl : s.inputs with
  | nil =>
    rw [step_of_nil hl, step_of_nil (s := s.disguise m c) hl]
    exact State.disguise_microStep hc hslot
  | cons l rest =>
    cases l with
    | rx b => exact absurd hl (hrx b rest)
    | cmd op =>
      rw [step_of_cmd hl, step_of_cmd (s := s.disguise m c) hl]
      exact exec_cmd_disguise (s := { s with inputs := rest }) hc
        (fun hi => (hread hi).congr rfl rfl rfl rfl) op
    | micro op =>
      rw [step_of_micro hl, step_of_micro (s := s.disguise m c) hl]
      exact State.disguise_microLine (s := { s with inputs := rest }) hc hslot op

end

/-! ## Other storage alone -/

/-- A step of the consumer leaves the storage, and the byte of an empty cache, as they were. -/
theorem step_disguise_self {s t : State} (hrx : ∀ b rest, s.inputs ≠ .rx b :: rest)
    (h : step s = .next t) : t.disguise s.buf s.cache = t := by
  have hself : s.disguise s.buf s.cache = s := by simp [State.disguise]
  have hstep := step_disguise (m := s.buf) (s := s) (c := s.cache) (fun _ => rfl) hrx
    (fun _ => .inl rfl) (fun _ _ => rfl)
  rw [hself, h] at hstep
  exact (Host.Outcome.next.inj hstep).symm

/-- Over other storage that shows the same bytes, a step of the consumer does the same. -/
theorem step_withBuf {s : State} {m : Memory} (hs : s.inv = true)
    (hm : ({ s with buf := m } : State).visible = s.visible)
    (hrx : ∀ b rest, s.inputs ≠ .rx b :: rest) :
    step { s with buf := m } = mapNext (fun t => { t with buf := m }) (step s) := by
  obtain ⟨hS, hL⟩ := s.inv_iff_sound.1 hs
  have hread (hc : s.ctl ≠ .beginTail) : ReadsAlike m s := by
    rw [State.visible_of_ne hc, State.visible_of_ne (s := { s with buf := m }) hc] at hm
    exact .inr ⟨hS.ring, hm⟩
  have hslot (u : PopUser) (hc : s.ctl = .popSlot u) : m.read s.nextTail = s.peekByte :=
    (hread (by simp [hc])).peekByte ((State.ctlInv_popSlot hc).1 hL).1
  have hstep := step_disguise (c := s.cache) (fun _ => rfl) hrx (fun hi => hread (by simp [hi])) hslot
  rw [show s.disguise m s.cache = { s with buf := m } by simp [State.disguise]] at hstep
  rw [hstep]
  cases h : step s with
  | next t =>
    have hcache := congrArg State.cache (step_disguise_self hrx h)
    simp only [State.disguise] at hcache
    simp only [mapNext, State.disguise, hcache]
  | fault r => rfl
  | refused r => rfl

/-- The bytes still visible after a step of the consumer are those of the storage compared with. -/
theorem visible_step_withBuf {s t : State} {m : Memory} (hs : s.inv = true)
    (hs' : ({ s with buf := m } : State).inv = true)
    (hm : ({ s with buf := m } : State).visible = s.visible)
    (hrx : ∀ b rest, s.inputs ≠ .rx b :: rest) (h : step s = .next t)
    (h' : step { s with buf := m } = .next { t with buf := m }) :
    ({ t with buf := m } : State).visible = t.visible := by
  have hsuf := (step_cases h).visible_suffix hs hrx
  have hsuf' := (step_cases h').visible_suffix hs' hrx
  rw [hm] at hsuf'
  have hlen := t.length_visible_withBuf m
  exact (List.suffix_of_suffix_length_le hsuf' hsuf hlen.le).eq_of_length hlen

/-! ## A PUSH -/

theorem State.pushByte_withBuf (s : State) (m : Memory) (b : Byte) :
    ∃ m', ({ s with buf := m } : State).pushByte b = { s.pushByte b with buf := m' } := by
  by_cases h : s.nextHead = s.tail
  · rw [State.pushByte_of_full h]
    exact ⟨m, if_pos h⟩
  · rw [State.pushByte_of_room h]
    exact ⟨m.write s.nextHead b, if_neg h⟩

theorem State.pushByte_withCache (s : State) (c : Byte) (b : Byte) :
    ({ s with cache := c } : State).pushByte b = { s.pushByte b with cache := c } := by
  simpa using s.pushByte_withConsumer b s.flags c s.cacheValid s.rsp s.cfgOut

/-! ## The statements -/

/-- R28 for the storage. -/
theorem staleSlots_unobservable {s : State} {m : Memory} (hs : s.inv = true)
    (hs' : ({ s with buf := m } : State).inv = true)
    (hm : ({ s with buf := m } : State).visible = s.visible) :
    (∀ t, step s = .next t →
      ∃ m', step { s with buf := m } = .next { t with buf := m' } ∧
        ({ t with buf := m' } : State).visible = t.visible) ∧
    (∀ r, step s = .refused r → step { s with buf := m } = .refused r) := by
  by_cases hpush : ∃ b rest, s.inputs = .rx b :: rest
  · obtain ⟨b, rest, hl⟩ := hpush
    rw [step_rx hl, step_rx (s := { s with buf := m }) hl]
    refine ⟨?_, nofun⟩
    rintro t ⟨⟩
    obtain ⟨m', hpush⟩ := (s.withInputs rest).pushByte_withBuf m b
    refine ⟨m', congrArg _ hpush, ?_⟩
    have hsame : ({ s.withInputs rest with buf := m } : State).visible =
        (s.withInputs rest).visible := hm
    have hv := State.visible_pushByte (State.inv_withInputs hs rest) b
    have hv' := State.visible_pushByte (s := { s.withInputs rest with buf := m }) hs' b
    rw [hpush, hsame] at hv'
    exact hv'.trans hv.symm
  · have hrx : ∀ b rest, s.inputs ≠ .rx b :: rest := fun b rest hl => hpush ⟨b, rest, hl⟩
    have hstep := step_withBuf hs hm hrx
    constructor
    · intro t h
      rw [h] at hstep
      exact ⟨m, hstep, visible_step_withBuf hs hs' hm hrx h hstep⟩
    · intro r h
      rw [hstep, h]
      rfl

/-- R28 for an empty cache. -/
theorem emptyCache_unobservable {s : State} {c : Byte} (hv : s.cacheValid = false) :
    (∀ t, step s = .next t →
      ∃ c', step { s with cache := c } = .next { t with cache := c' } ∧
        (t.cacheValid = true → c' = t.cache)) ∧
    (∀ r, step s = .refused r → step { s with cache := c } = .refused r) := by
  by_cases hpush : ∃ b rest, s.inputs = .rx b :: rest
  · obtain ⟨b, rest, hl⟩ := hpush
    rw [step_rx hl, step_rx (s := { s with cache := c }) hl]
    refine ⟨?_, nofun⟩
    rintro t ⟨⟩
    refine ⟨c, congrArg _ ((s.withInputs rest).pushByte_withCache c b), fun hv' => ?_⟩
    rw [State.pushByte_cacheValid] at hv'
    exact absurd hv' (by simp [State.withInputs, hv])
  · have hrx : ∀ b rest, s.inputs ≠ .rx b :: rest := fun b rest hl => hpush ⟨b, rest, hl⟩
    have hstep := step_disguise (m := s.buf) (s := s) (c := c) (by simp [hv]) hrx (fun _ => .inl rfl)
      (fun _ _ => rfl)
    rw [show s.disguise s.buf c = { s with cache := c } by simp [State.disguise, hv]] at hstep
    constructor
    · intro t h
      have hbuf := (step_cases h).buf hrx
      rw [h] at hstep
      refine ⟨if t.cacheValid = true then t.cache else c, ?_, fun hv' => if_pos hv'⟩
      rw [hstep, mapNext, State.disguise, ← hbuf]
    · intro r h
      rw [hstep, h]
      rfl

/-- Settles O47: a step of the consumer does the same in disguise (`step_disguise`), and a PUSH
looks at neither the stored bytes nor the cache. -/
theorem staleSlotsAreUnobservable : Obligations.StaleSlotsAreUnobservable := by
  unfold Obligations.StaleSlotsAreUnobservable
  exact ⟨fun s m => staleSlots_unobservable, fun s c => emptyCache_unobservable⟩

end Sys2Proof.Machine
end

section
/-! Runs over trace lines (30_encoding.md R65): a micro-step line, a whole operation and a row of
PUSHes as the first lines of a run. The consumer does not look at the lines to come, so what a line
does is said of a state whatever lines it holds. -/

namespace Sys2Proof.Machine

/-! ## The consumer does not see the lines to come -/

theorem State.wordDone_withInputs (s : State) (rest : List Input) (w : Byte) :
    (s.withInputs rest).wordDone w = (s.wordDone w).withInputs rest := by
  unfold State.wordDone State.emit
  by_cases h0 : (Spec.word s.cfg s.flags w).2.getD 0#8 = 0#8
  · simp only [State.withInputs, h0, if_true]
    rfl
  · simp only [State.withInputs, h0, if_false]
    cases s.ctl.decodeUser <;> rfl

theorem State.answerEmpty_withInputs (s : State) (rest : List Input) (u : PopUser) :
    (s.withInputs rest).answerEmpty u = (s.answerEmpty u).withInputs rest := by
  cases u with
  | direct => rfl
  | word u => cases u <;> rfl

theorem State.endClear_withInputs (s : State) (rest : List Input) (u : ClearUser) :
    (s.withInputs rest).endClear u = (s.endClear u).withInputs rest := by
  cases u with
  | clear => rfl
  | flush =>
    cases hf : s.cfg.flushClearsCache <;>
      simp [State.endClear, State.flushCache, State.finish, State.withInputs, hf]

theorem State.start_withInputs (s : State) (rest : List Input) (op : Cmd) :
    (s.withInputs rest).start op = (s.start op).withInputs rest := by
  rcases cmd_cases op with rfl | rfl | rfl | rfl | rfl | rfl | rfl | rfl
  case inr.inr.inr.inl | inr.inr.inr.inr.inl =>
    cases hv : s.cacheValid <;>
      simp [State.start_available, State.start_read, State.withInputs, State.takeCached,
        State.finish, hv]
  all_goals rfl

theorem State.microStep_withInputs (s : State) (rest : List Input) :
    (s.withInputs rest).microStep = mapNext (State.withInputs · rest) s.microStep := by
  have hctl : (s.withInputs rest).ctl = s.ctl := rfl
  cases hs : s.ctl <;> rw [hs] at hctl <;> simp only [State.microStep, hs, hctl, mapNext]
  case popHead u =>
    rw [State.answerEmpty_withInputs]
    by_cases he : s.head = s.tail
    · rw [if_pos he]
      exact congrArg _ (if_pos he)
    · rw [if_neg he]
      exact congrArg _ (if_neg he)
  case popTail u b =>
    cases u with
    | direct => rfl
    | word u =>
      simp only [State.popped, runWord_eq_word]
      exact congrArg _ (s.advanceTail.wordDone_withInputs rest b)
  case clearTail u i => exact congrArg _ ((s.setTail i).endClear_withInputs rest u)
  all_goals rfl

/-! ## A line of micro-step -/

theorem State.microLine_of_idle {s : State} {op : Cmd} (h7 : op ≠ 7#3) (hi : s.ctl = .idle) :
    s.microLine op = (s.start op).microStep := by
  unfold State.microLine
  rw [if_neg h7, if_pos hi]

theorem Ctl.code_eq_none_iff (c : Ctl) : c.code = none ↔ c = .idle := by
  cases c <;> simp [Ctl.code]

theorem State.microLine_of_code {s : State} {op : Cmd} (h7 : op ≠ 7#3) (hc : s.ctl.code = some op) :
    s.microLine op = s.microStep := by
  have hbusy : s.ctl ≠ .idle := fun hi => nomatch ((Ctl.code_eq_none_iff _).2 hi).symm.trans hc
  unfold State.microLine
  rw [if_neg h7, if_neg hbusy, if_pos hc]

theorem State.microLine_withInputs (s : State) (rest : List Input) (op : Cmd) :
    (s.withInputs rest).microLine op = mapNext (State.withInputs · rest) (s.microLine op) := by
  have hctl : (s.withInputs rest).ctl = s.ctl := rfl
  unfold State.microLine
  rw [hctl, State.start_withInputs, State.microStep_withInputs, State.microStep_withInputs]
  split_ifs <;> rfl

/-! ## The first line of a run -/

theorem State.runLines_of_step {s t : State} {l : Input} {ls : List Input}
    (h : step (s.withInputs (l :: ls)) = .next t) : s.runLines (l :: ls) = t.runLines ls := by
  have h' : step { s with inputs := l :: ls } = .next t := h
  rw [State.runLines_cons, h']

theorem State.runLines_micro {s t : State} {op : Cmd} (h : s.microLine op = .next t)
    (ls : List Input) : s.runLines (.micro op :: ls) = t.runLines ls := by
  refine State.runLines_of_step (t := t.withInputs ls) ((step_of_micro rfl).trans ?_)
  exact (s.microLine_withInputs ls op).trans (by rw [h]; rfl)

theorem State.runLines_cmd {s t : State} {op : Cmd} {ls : List Input}
    (h : exec (decodeCmd op) (s.withInputs ls) = .next t) :
    s.runLines (.cmd op :: ls) = t.runLines ls :=
  State.runLines_of_step ((step_of_cmd rfl).trans h)

/-! ## A row of PUSHes -/

/-- PUSHes one after the other. -/
def State.pushBytes (s : State) (bs : List Byte) : State := bs.foldl State.pushByte s

theorem State.runLines_rxLines (s : State) (bs : List Byte) (ls : List Input) :
    s.runLines (rxLines bs ++ ls) = (s.pushBytes bs).runLines ls := by
  induction bs generalizing s with
  | nil => rfl
  | cons b bs ih => exact (s.runLines_rx b _).trans (ih _)

/-- A PUSH neither sees nor moves the operation in progress. -/
theorem State.pushByte_withCtl (s : State) (c : Ctl) (b : Byte) :
    ({ s with ctl := c } : State).pushByte b = { s.pushByte b with ctl := c } := by
  by_cases h : s.nextHead = s.tail
  · rw [State.pushByte_of_full h]
    exact if_pos h
  · rw [State.pushByte_of_room h]
    exact if_neg h

theorem State.pushBytes_withCtl (s : State) (c : Ctl) (bs : List Byte) :
    ({ s with ctl := c } : State).pushBytes bs = { s.pushBytes bs with ctl := c } := by
  induction bs generalizing s with
  | nil => rfl
  | cons b bs ih => exact (congrArg (State.pushBytes · bs) (s.pushByte_withCtl c b)).trans (ih _)

@[simp] theorem State.pushBytes_ctl (s : State) (bs : List Byte) : (s.pushBytes bs).ctl = s.ctl := by
  induction bs generalizing s with
  | nil => rfl
  | cons b bs ih => exact (ih _).trans (s.pushByte_ctl b)

theorem State.Sound.pushBytes {s : State} (h : s.Sound) (bs : List Byte) : (s.pushBytes bs).Sound := by
  induction bs generalizing s with
  | nil => exact h
  | cons b bs ih => exact ih (h.pushByte b)

theorem State.head_ne_tail_pushBytes {s : State} (hne : s.head ≠ s.tail) (bs : List Byte) :
    (s.pushBytes bs).head ≠ (s.pushBytes bs).tail := by
  induction bs generalizing s with
  | nil => exact hne
  | cons b bs ih => exact ih (State.head_ne_tail_pushByte hne b)

/-- The oldest unread byte stays the oldest, whatever is pushed behind it. -/
theorem State.peekByte_pushBytes {s : State} (hS : s.Sound) (hne : s.head ≠ s.tail)
    (bs : List Byte) : (s.pushBytes bs).peekByte = s.peekByte := by
  induction bs generalizing s with
  | nil => rfl
  | cons b bs ih =>
    exact (ih (hS.pushByte b) (State.head_ne_tail_pushByte hne b)).trans
      (State.peekByte_pushByte hS hne b)

end Sys2Proof.Machine
end

section
/-! A whole operation ends in its one step, and its micro-step lines with no PUSH between them lead
to the same end (20_memory.md R39, 40_ring_buffer.md R76). -/

namespace Sys2Proof.Machine

/-! ## A whole operation ends -/

/-- A fuel above the number of unread words is enough for the decoder's loop (R80): each round takes
one word. -/
theorem decodeLoop_ends {n : Nat} {s : State} (r : s.Ring) (hn : s.occupancy < n) :
    ∃ t, decodeLoop n s = .next t ∧ t.ctl = .idle := by
  induction n generalizing s with
  | zero => omega
  | succ n ih =>
    unfold decodeLoop
    by_cases he : s.head = s.tail
    · exact ⟨_, if_pos he, State.answerNone_ctl ..⟩
    rw [if_neg he, runWord_eq_word]
    simp only
    split
    case isTrue hi => exact ⟨_, rfl, hi⟩
    case isFalse =>
      have hlen := congrArg List.length (State.unread_eq_cons r he)
      have hsame : (s.advanceTail.wordDone s.peekByte).occupancy = s.advanceTail.occupancy := by
        simp [State.occupancy]
      obtain ⟨h2, hh, ht⟩ := State.ring_advanceTail r
      refine ih ⟨by simpa using h2, by simpa using hh, by simpa using ht⟩ ?_
      rw [List.length_cons, State.length_unread, State.length_unread] at hlen
      omega

theorem State.runDecoder_ends {s : State} (r : s.Ring) (u : DecodeUser) :
    ∃ t, s.runDecoder u = .next t ∧ t.ctl = .idle :=
  have r' : ({ s with ctl := .popHead (.word u) } : State).Ring := ⟨r.two_le, r.head_lt, r.tail_lt⟩
  decodeLoop_ends r' (State.occupancy_lt r')

/-- A whole operation on an idle block answers, and leaves the block idle. -/
theorem exec_cmd_ends {s : State} (r : s.Ring) (hi : s.ctl = .idle) {op : Cmd} (h7 : op ≠ 7#3) :
    ∃ t, exec (decodeCmd op) s = .next t ∧ t.ctl = .idle := by
  have whenIdle {run : Out} (h : ∃ t, run = .next t ∧ t.ctl = .idle) :
      ∃ t, s.whenIdle run = .next t ∧ t.ctl = .idle := by
    rwa [State.whenIdle_of_idle hi]
  rcases cmd_cases op with rfl | rfl | rfl | rfl | rfl | rfl | rfl | rfl
  case inr.inr.inr.inr.inr.inr.inr => exact absurd rfl h7
  all_goals refine whenIdle ?_
  case inl => exact ⟨_, rfl, by split <;> rfl⟩
  case inr.inl | inr.inr.inr.inr.inr.inl | inr.inr.inr.inr.inr.inr.inl => exact ⟨_, rfl, rfl⟩
  case inr.inr.inl => exact State.runDecoder_ends r .decode
  case inr.inr.inr.inl | inr.inr.inr.inr.inl =>
    split
    · exact ⟨_, rfl, rfl⟩
    · exact State.runDecoder_ends r _

/-! ## Micro-step lines -/

theorem State.microStep_of_idle {s : State} (hi : s.ctl = .idle) : s.microStep = .next s := by
  simp [State.microStep, hi]

theorem MicroRun.eq_of_idle {s t : State} (h : MicroRun s t) (hi : s.ctl = .idle) : t = s := by
  refine h.keeps (P := (· = s)) ?_ rfl
  rintro a b rfl hab
  exact (Host.Outcome.next.inj ((State.microStep_of_idle hi).symm.trans hab)).symm

/-- A chain of micro-steps that ends the operation in progress, run by that operation's lines. -/
theorem MicroRun.runLines {s t : State} {op : Cmd} (h : MicroRun s t) (h7 : op ≠ 7#3)
    (hc : s.ctl.code = some op) (ht : t.ctl = .idle) :
    ∃ k, s.runLines (List.replicate (k + 1) (.micro op)) = .next (t.withInputs []) := by
  induction h using Relation.ReflTransGen.head_induction_on with
  | refl =>
    rw [ht] at hc
    cases hc
  | @head a b hab hbt ih =>
    have hline : a.microLine op = .next b := (State.microLine_of_code h7 hc).trans hab
    rcases (State.moves_of_microStep hab).code with hb | hb
    · obtain rfl := MicroRun.eq_of_idle hbt ((Ctl.code_eq_none_iff _).1 hb)
      exact ⟨0, State.runLines_micro hline []⟩
    · obtain ⟨k, hk⟩ := ih (hb.trans hc)
      exact ⟨k + 1, (State.runLines_micro hline _).trans hk⟩

/-- The first line of an operation runs the micro-step that the operation, once issued, stands
before. -/
theorem State.runLines_start {s : State} {op : Cmd} (h7 : op ≠ 7#3) (hi : s.ctl = .idle)
    (hc : (s.start op).ctl.code = some op) (ls : List Input) :
    s.runLines (.micro op :: ls) = (s.start op).runLines (.micro op :: ls) := by
  obtain ⟨t, ht⟩ := (s.start op).microStep_next
  rw [State.runLines_micro ((State.microLine_of_idle h7 hi).trans ht),
    State.runLines_micro ((State.microLine_of_code h7 hc).trans ht)]

/-- A whole operation with no line behind it is a run of its own lines: it is a chain of micro-steps
from its issue (`exec_cmd_microRun`), and the chain ends (`exec_cmd_ends`). -/
theorem exists_microLines_eq_exec {s : State} {op : Cmd} (hs : s.inv = true) (hi : s.ctl = .idle)
    (hin : s.inputs = []) (h7 : op ≠ 7#3) :
    ∃ k, 1 ≤ k ∧ s.runLines (List.replicate k (.micro op)) = exec (decodeCmd op) s := by
  obtain ⟨t, hexec, ht⟩ := exec_cmd_ends (State.ring_of_inv hs) hi h7
  have hrun := (exec_cmd_microRun hexec).2
  have hlines : t.withInputs [] = t := by
    rw [State.withInputs, ← (exec_cmd_inputs op hexec).trans hin]
  rw [hexec, ← hlines]
  rcases State.start_code hi op with hnone | hcode
  · have hidle := (Ctl.code_eq_none_iff _).1 hnone
    obtain rfl := hrun.eq_of_idle hidle
    have hline : s.microLine op = .next (s.start op) :=
      (State.microLine_of_idle h7 hi).trans (State.microStep_of_idle hidle)
    exact ⟨1, le_rfl, State.runLines_micro hline []⟩
  · obtain ⟨k, hk⟩ := hrun.runLines h7 hcode ht
    exact ⟨k + 1, Nat.le_add_left .., (State.runLines_start h7 hi hcode _).trans hk⟩

/-- Settles O49, by `exists_microLines_eq_exec` with the state's own lines put aside. -/
theorem microStepsMakeTheWholeOperation : Obligations.MicroStepsMakeTheWholeOperation := by
  unfold Obligations.MicroStepsMakeTheWholeOperation
  exact fun s op hs hi h7 =>
    exists_microLines_eq_exec (s := s.withInputs []) (State.inv_withInputs hs []) hi rfl h7

end Sys2Proof.Machine
end

section
/-! What a step of any kind does to the unread run (20_memory.md R42, R44). -/

namespace Sys2Proof.Machine

/-! ## Outside BEGIN the unread run is the visible one -/

/-- Only BEGIN.2 leads before BEGIN.3. -/
theorem State.Moves.ne_beginTail {s t : State} (h : s.Moves t) (hc : s.ctl ≠ .beginHead) :
    t.ctl ≠ .beginTail := by
  cases h
  case stay hi => simp [hi]
  case word u b _ =>
    rcases s.advanceTail.wordDone_ctl b with e | e <;> simp [e]
  case beginHead h8 => exact absurd h8 hc
  all_goals simp

/-- A whole operation that answers leaves the block idle. -/
theorem exec_cmd_ctl {s t : State} (r : s.Ring) {op : Cmd} (h : exec (decodeCmd op) s = .next t) :
    t.ctl = .idle := by
  have h7 : op ≠ 7#3 := by
    rintro rfl
    cases h
  obtain ⟨t', ht', hidle⟩ := exec_cmd_ends r (exec_cmd_microRun h).1 h7
  cases ht'.symm.trans h
  exact hidle

theorem step_ne_beginTail {s t : State} (hs : s.inv = true) (h : step s = .next t)
    (hrx : ∀ b rest, s.inputs ≠ .rx b :: rest) (hc : s.ctl ≠ .beginHead) : t.ctl ≠ .beginTail := by
  cases step_cases h with
  | push b rest hl => exact absurd hl (hrx b rest)
  | whole op rest hl =>
    rw [step_of_cmd hl] at h
    rw [exec_cmd_ctl (State.ring_of_inv (State.inv_withInputs hs rest)) h]
    exact nofun
  | first op rest hl hi hstep =>
    refine (State.moves_of_microStep hstep).ne_beginTail ?_
    rcases State.start_ctl (s := s.withInputs rest) hi op with e | ⟨u, e⟩ | ⟨u, e⟩ | e <;>
      rw [e] <;> exact nofun
  | onward rest hl hstep => exact (State.moves_of_microStep hstep).ne_beginTail hc

/-- Between BEGIN.2 and BEGIN.3 the visible bytes are the newest of the unread run, which goes round
from the old `TAIL` past slot 0. -/
theorem State.visible_suffix_unread {s : State} (hs : s.inv = true) : s.visible <:+ s.unread := by
  by_cases hc : s.ctl = .beginTail
  · obtain ⟨hS, hL⟩ := s.inv_iff_sound.1 hs
    have hold := (State.ctlInv_beginTail hc).1 hL
    have hpos : 0 < s.cfg.N := Nat.zero_lt_of_lt hS.head_lt
    have hle : (0 + s.cfg.N - s.tail) % s.cfg.N ≤ s.occupancy := by
      rcases Nat.eq_zero_or_pos s.tail with h0 | hpos'
      · simp [h0]
      · rw [State.occupancy_eq hS.ring, if_neg (by omega), Nat.mod_eq_of_lt (by omega)]
        omega
    rw [State.visible_of_beginTail hc]
    exact State.unread_setTail hS.ring hpos hle ▸ List.drop_suffix ..
  · rw [State.visible_of_ne hc]

/-- A step of the consumer, BEGIN.2 apart, takes unread bytes from the old end only. -/
theorem unread_suffix_of_step {s t : State} (hs : s.inv = true) (h : step s = .next t)
    (hrx : ∀ b rest, s.inputs ≠ .rx b :: rest) (hc : s.ctl ≠ .beginHead) : t.unread <:+ s.unread := by
  have hvis := (step_cases h).visible_suffix hs hrx
  rw [State.visible_of_ne (step_ne_beginTail hs h hrx hc)] at hvis
  exact hvis.trans (State.visible_suffix_unread hs)

/-- Settles O16: a PUSH appends its byte (`State.unread_pushByte`), and any other step leaves a
suffix (`unread_suffix_of_step`). -/
theorem unreadBytesOnlyLeaveInOrder : Obligations.UnreadBytesOnlyLeaveInOrder := by
  unfold Obligations.UnreadBytesOnlyLeaveInOrder
  intro s t hs hc h
  have consumer (hrx : ∀ b rest, s.inputs ≠ .rx b :: rest) : ∃ k, t.unread = s.unread.drop k ++ [] :=
    ⟨_, by simpa using List.suffix_iff_eq_drop.1 (unread_suffix_of_step hs h hrx hc)⟩
  cases hl : s.inputs with
  | nil => exact consumer (by simp [hl])
  | cons l rest =>
    cases l with
    | rx b =>
      cases (step_rx hl).symm.trans h
      have hS := ((State.inv_iff_sound _).1 (State.inv_withInputs hs rest)).1
      have hpush : ((s.withInputs rest).pushByte b).unread =
          if s.unread.length < s.cfg.N - 1 then s.unread ++ [b] else s.unread :=
        State.unread_pushByte (s := s.withInputs rest) hS.ring hS.buf_wf b
      refine ⟨0, hpush.trans ?_⟩
      rw [List.drop_zero]
      split <;> simp
    | cmd op => exact consumer (by simp [hl])
    | micro op => exact consumer (by simp [hl])

end Sys2Proof.Machine
end

section
/-! POP and CLEAR with PUSHes between their micro-steps (20_memory.md R47). -/

namespace Sys2Proof.Machine

/-! ## POP is linearizable -/

theorem exec_pop_of_empty {s : State} (hi : s.ctl = .idle) (he : s.head = s.tail) :
    exec .pop s = .next (s.finish (.raw .empty)) :=
  (State.whenIdle_of_idle hi _).trans (congrArg _ (if_pos he))

theorem exec_pop_of_nonempty {s : State} (hi : s.ctl = .idle) (hne : s.head ≠ s.tail) :
    exec .pop s = .next (s.advanceTail.finish (.raw (.byte s.peekByte))) :=
  (State.whenIdle_of_idle hi _).trans (congrArg _ (if_neg hne))

/-- POP.1 of an empty ring is the whole POP. -/
theorem runLines_pop_of_empty {s : State} (hi : s.ctl = .idle) (he : s.head = s.tail) :
    s.runLines [.micro 0#3] = s.runLines [.cmd 0#3] := by
  have hline : s.microLine 0#3 = .next (s.finish (.raw .empty)) :=
    (State.microLine_of_idle (by decide) hi).trans
      (State.microStep_of_empty (s := s.start 0#3) (u := .direct) rfl he)
  rw [State.runLines_micro hline,
    State.runLines_cmd (op := 0#3) (exec_pop_of_empty (s := s.withInputs []) hi he)]
  rfl

/-- POP of a non-empty ring with PUSHes in both gaps: each micro-step finds the ring as the PUSHes
before it left it, POP standing at its own place. -/
theorem runLines_pop_between_pushes {s : State} (hi : s.ctl = .idle) (hne : s.head ≠ s.tail)
    (bs cs : List Byte) :
    s.runLines (.micro 0#3 :: (rxLines bs ++ .micro 0#3 :: (rxLines cs ++ [.micro 0#3]))) =
      .next ((((s.pushBytes bs).pushBytes cs).advanceTail.finish
        (.raw (.byte (s.pushBytes bs).peekByte))).withInputs []) := by
  have h1 : s.microLine 0#3 = .next { s with ctl := .popSlot .direct } :=
    (State.microLine_of_idle (by decide) hi).trans
      (State.microStep_of_nonempty (s := s.start 0#3) (u := .direct) rfl hne)
  rw [State.runLines_micro h1, State.runLines_rxLines, State.pushBytes_withCtl]
  generalize s.pushBytes bs = a
  have h2 : ({ a with ctl := .popSlot .direct } : State).microLine 0#3 =
      .next { a with ctl := .popTail .direct a.peekByte } := State.microLine_of_code (by decide) rfl
  rw [State.runLines_micro h2, State.runLines_rxLines, State.pushBytes_withCtl]
  have h3 : ({ a.pushBytes cs with ctl := .popTail .direct a.peekByte } : State).microLine 0#3 =
      .next ((a.pushBytes cs).advanceTail.finish (.raw (.byte a.peekByte))) :=
    State.microLine_of_code (by decide) rfl
  exact State.runLines_micro h3 []

/-- Settles O50: a POP that returns a byte takes the one that stays the oldest under every PUSH
(`State.peekByte_pushBytes`), and writes `TAIL` last. -/
theorem popIsLinearizable : Obligations.PopIsLinearizable := by
  unfold Obligations.PopIsLinearizable
  intro s bs cs hs hi
  refine ⟨runLines_pop_of_empty hi, fun hne => ?_⟩
  have hS := (s.inv_iff_sound.1 hs).1
  have hne' := State.head_ne_tail_pushBytes hne bs
  have hpop : exec .pop (((s.pushBytes bs).pushBytes cs).withInputs []) = _ :=
    exec_pop_of_nonempty (s := ((s.pushBytes bs).pushBytes cs).withInputs [])
      (show ((s.pushBytes bs).pushBytes cs).ctl = .idle by simpa using hi)
      (State.head_ne_tail_pushBytes hne' cs)
  simp only [List.append_assoc, List.cons_append, List.nil_append]
  rw [runLines_pop_between_pushes hi hne, ← State.peekByte_pushBytes (hS.pushBytes bs) hne' cs,
    State.runLines_rxLines, State.runLines_rxLines, State.runLines_cmd (op := 0#3) hpop]
  rfl

/-! ## CLEAR is not -/

/-- Four slots and two bytes unread, so that one PUSH fills the ring (R47, R164). -/
def fourSlotsTwoUnread : State :=
  { State.reset with
    cfg := { Config.default with N := 4 }, buf := [(1, 0x11#8), (2, 0x22#8)], head := 2 }

/-- Settles O52: CLEAR.2 writes the `HEAD` that CLEAR.1 read, so the PUSH between the two that found
room is unread, and the one that found the ring full is lost. -/
theorem clearIsNotLinearizable : Obligations.ClearIsNotLinearizable := by
  unfold Obligations.ClearIsNotLinearizable
  exact ⟨fourSlotsTwoUnread, rfl, rfl, rfl, ⟨_, rfl, rfl⟩, ⟨_, rfl, rfl⟩, ⟨_, rfl, rfl⟩, ⟨_, rfl, rfl⟩⟩

end Sys2Proof.Machine
end

section
/-! The instruction a step runs is the one the decoder reads (30_encoding.md R51, R62, R63). -/

namespace Sys2Proof.Machine

/-- The three select lines widened to a byte decode to the operation they name (R63). -/
theorem decode_consumer_setWidth (cfg : Config) (op : Cmd) :
    decode cfg .consumer (op.setWidth 8) = .ok (decodeCmd op) := by
  have hback : (op.setWidth 8).setWidth 3 = op := by simp
  have hlt : (op.setWidth 8).toNat < 8 := by
    rw [BitVec.toNat_setWidth_of_le (by decide)]
    exact op.isLt
  rw [decode, if_pos hlt, hback]

/-- POP.3 of the decoder writes `TAIL` and runs the word read as its instruction. -/
theorem State.microStep_of_word {s : State} {u : DecodeUser} {w : Byte}
    (hc : s.ctl = .popTail (.word u) w) :
    s.microStep = exec (decodeWord s.cfg s.context w) s.advanceTail := by
  simp only [State.microStep, hc]
  exact runWord_eq_exec w s.advanceTail

/-- Settles O6: by the line, and for a word by `State.microStep_of_word`. -/
theorem stepRunsTheDecodedInstruction : Obligations.StepRunsTheDecodedInstruction := by
  unfold Obligations.StepRunsTheDecodedInstruction
  refine ⟨?producer, ?consumer, ?word, ?wordWithoutLine⟩
  case producer =>
    rintro s b rest i hl ⟨⟩
    exact step_of_rx hl
  case consumer =>
    intro s op rest i hl hdec
    cases (decode_consumer_setWidth s.cfg op).symm.trans hdec
    exact step_of_cmd hl
  case word =>
    rintro s u w rest i hl hc ⟨⟩
    have hcode : ({ s with inputs := rest } : State).ctl.code = some u.code := by
      simp [hc, Ctl.code, PopUser.code]
    rw [step_of_micro hl, State.microLine_of_code u.code_ne_seven hcode]
    exact State.microStep_of_word (s := { s with inputs := rest }) hc
  case wordWithoutLine =>
    rintro s u w i hl hc ⟨⟩
    rw [step_of_nil hl]
    exact State.microStep_of_word hc

end Sys2Proof.Machine
end

section
/-! The decoder and the encoder are inverse to each other, port by port (30_encoding.md R51, R62, R63,
R67). -/

namespace Sys2Proof

/-! ## The consumer port -/

/-- On the consumer port the decoder reads back every row of that port. -/
theorem decode_encode_consumer (cfg : Config) {i : Instr} (hp : i.onPort .consumer = true) :
    decode cfg .consumer (encode cfg i) = .ok i := by
  cases i
  case pop | clear | decode | available | read | flush | beginOp | rsvd7 => rfl
  all_goals cases hp

/-- The byte of a select code is the code (R63). -/
theorem encode_decodeCmd (cfg : Config) (op : Cmd) : encode cfg (decodeCmd op) = op.setWidth 8 := by
  rcases Machine.cmd_cases op with rfl | rfl | rfl | rfl | rfl | rfl | rfl | rfl <;> rfl

/-- No select code has an operand. -/
theorem decodeCmd_wf (cfg : Config) (op : Cmd) : (decodeCmd op).wf cfg = true := by
  rcases Machine.cmd_cases op with rfl | rfl | rfl | rfl | rfl | rfl | rfl | rfl <;> rfl

/-- What the consumer port reads is the operation of a select code, and the byte is that code. -/
theorem decode_consumer_eq_ok {cfg : Config} {b : Byte} {i : Instr}
    (h : decode cfg .consumer b = .ok i) : ∃ op : Cmd, b = op.setWidth 8 ∧ i = decodeCmd op := by
  rw [decode] at h
  split at h
  case isTrue hlt =>
    cases h
    refine ⟨b.setWidth 3, BitVec.eq_of_toNat_eq ?_, rfl⟩
    simp only [BitVec.toNat_setWidth]
    omega
  case isFalse => cases h

/-! ## A scan-code word -/

/-- Tests 6 to 10 of R51: what a looked-up word without BREAK is. -/
theorem decodeWord_of_lookup (cfg : Config) {c : Context} {s : Byte} (hl : isLookupCode s = true)
    (hb : c.brk = false) :
    decodeWord cfg c s =
      if c.modifier = true then decodeExtended cfg s
      else if 128 ≤ s.toNat then .scHigh s
      else if c.shift = true then .scKeys s
      else .scKeyu s := by
  obtain ⟨hF0, hE0, h12, h59⟩ := (Machine.isLookupCode_iff s).1 hl
  simp only [decodeWord, hF0, hE0, h12, h59, hb, Bool.false_eq_true, if_false]

/-- A key-identifying code at or above 128 is looked up: both shift keys lie below. -/
theorem isLookupCode_of_high {s : Byte} (hk : isKeyCode s = true) (hs : 128 ≤ s.toNat) :
    isLookupCode s = true := by
  have h12 : s ≠ 0x12#8 := by
    rintro rfl
    exact absurd hs (by decide)
  have h59 : s ≠ 0x59#8 := by
    rintro rfl
    exact absurd hs (by decide)
  simp [isLookupCode, hk, h12, h59]

theorem Context.extended_iff (c : Context) :
    c.extended = true ↔ c.brk = false ∧ c.modifier = true := by
  simp [Context.extended]

theorem Context.plain_iff (c : Context) :
    c.plain = true ↔ c.brk = false ∧ c.modifier = false := by
  simp [Context.plain]

/-- A key is reachable when its code is looked up, finds that key, and has an output. -/
theorem Config.keyReachable_iff (cfg : Config) (k : ExtKey) :
    cfg.keyReachable k = true ↔ isLookupCode (cfg.extCode.get k) = true ∧
      cfg.keyOf (cfg.extCode.get k) = some k ∧ cfg.ext (cfg.extCode.get k) ≠ 0#8 := by
  simp only [Config.keyReachable, Bool.and_eq_true, beq_iff_eq, bne_iff_ne, and_assoc]

/-- The scan code of a reachable key is its row. -/
theorem decodeWord_code {cfg : Config} {c : Context} {k : ExtKey} (hk : cfg.keyReachable k = true)
    (hc : c.extended = true) : decodeWord cfg c (cfg.extCode.get k) = Instr.ofKey k := by
  obtain ⟨hl, hkey, hext⟩ := (cfg.keyReachable_iff k).1 hk
  obtain ⟨hb, hm⟩ := c.extended_iff.1 hc
  rw [decodeWord_of_lookup cfg hl hb, if_pos hm, decodeExtended, if_neg hext, hkey]

/-- On the scan port the decoder reads back every well-formed row that applies. -/
theorem decodeWord_encode {cfg : Config} {c : Context} {i : Instr} (hw : i.wf cfg = true)
    (hp : i.onPort (.scan c) = true) : decodeWord cfg c (encode cfg i) = i := by
  have key (hi : i ∈ ExtKey.all.map Instr.ofKey) : decodeWord cfg c (encode cfg i) = i := by
    obtain ⟨k, -, rfl⟩ := List.mem_map.1 hi
    rw [Instr.wf_ofKey] at hw
    rw [Instr.ofKey_onPort] at hp
    rw [Instr.encode_ofKey, decodeWord_code hw hp]
  cases i
  case push | pop | clear | decode | available | read | flush | beginOp | rsvd7 => cases hp
  case scBrk | scExt => rfl
  case scRel s =>
    have hb : c.brk = true := hp
    simp only [Instr.wf, isKeyCode, Bool.and_eq_true, bne_iff_ne] at hw
    simp [encode, decodeWord, hw, hb]
  case scLsh | scRsh =>
    have hb : c.brk = false := by simpa [Instr.onPort, Port.isScan] using hp
    simp [encode, decodeWord, hb]
  case scXnone s =>
    obtain ⟨hb, hm⟩ := c.extended_iff.1 hp
    simp only [Instr.wf, Bool.and_eq_true, beq_iff_eq] at hw
    rw [encode, decodeWord_of_lookup cfg hw.1 hb, if_pos hm, decodeExtended, if_pos hw.2]
  case scHigh s =>
    obtain ⟨hb, hm⟩ := c.plain_iff.1 hp
    simp only [Instr.wf, Bool.and_eq_true, decide_eq_true_eq] at hw
    simp [encode, decodeWord_of_lookup cfg (isLookupCode_of_high hw.1 hw.2) hb, hm, hw.2]
  case scKeys s | scKeyu s =>
    simp only [Instr.onPort, Port.isScan, Bool.and_eq_true, Bool.not_eq_true', c.plain_iff] at hp
    simp only [Instr.wf, Bool.and_eq_true, decide_eq_true_eq] at hw
    simp [encode, decodeWord_of_lookup cfg hw.1 hp.1.1, hp.1.2, hp.2, hw.2]
  all_goals exact key (by decide)

/-- An extended code is read as a well-formed row, and is that row's byte. -/
theorem decodeExtended_wf_encode (cfg : Config) {s : Byte} (hl : isLookupCode s = true) :
    (decodeExtended cfg s).wf cfg = true ∧ encode cfg (decodeExtended cfg s) = s := by
  rcases decodeExtended_cases cfg s with ⟨h0, e⟩ | ⟨k, hne, hk, e⟩ <;> rw [e]
  · exact ⟨by simp [Instr.wf, hl, h0], rfl⟩
  · have hcode := Config.code_of_keyOf hk
    rw [Instr.wf_ofKey, Instr.encode_ofKey, cfg.keyReachable_iff, hcode]
    exact ⟨⟨hl, hk, hne⟩, rfl⟩

/-- A scan-code word is read as a well-formed row, and is that row's byte. -/
theorem decodeWord_wf_encode (cfg : Config) (c : Context) (s : Byte) :
    (decodeWord cfg c s).wf cfg = true ∧ encode cfg (decodeWord cfg c s) = s := by
  rcases decodeWord_cases cfg c s with ⟨hs, e⟩ | ⟨-, hs, e⟩ | ⟨hF0, hE0, -, e⟩ | ⟨-, hs, e⟩ |
    ⟨-, hs, e⟩ | ⟨hl, -, -, e⟩ | ⟨hl, -, -, hhigh, e⟩ | ⟨hl, -, -, hlow, -, e⟩ |
    ⟨hl, -, -, hlow, -, e⟩ <;> rw [e]
  case inl | inr.inl | inr.inr.inr.inl | inr.inr.inr.inr.inl => exact ⟨rfl, hs.symm⟩
  case inr.inr.inl => exact ⟨by simp [Instr.wf, isKeyCode, hF0, hE0], rfl⟩
  case inr.inr.inr.inr.inr.inl => exact decodeExtended_wf_encode cfg hl
  case inr.inr.inr.inr.inr.inr.inl =>
    have hk : isKeyCode s = true := by
      simp only [isLookupCode, Bool.and_eq_true] at hl
      exact hl.1.1
    exact ⟨by simp [Instr.wf, hk, hhigh], rfl⟩
  all_goals exact ⟨by simp [Instr.wf, hl, hlow], rfl⟩

/-! ## The statements -/

/-- Settles O8, port by port: `decode_encode_consumer` and `decodeWord_encode`. -/
theorem decodeOfEncode : Obligations.DecodeOfEncode := by
  unfold Obligations.DecodeOfEncode
  intro cfg i p hw hp
  cases p with
  | producer =>
    cases i
    case push => rfl
    all_goals cases hp
  | consumer => exact decode_encode_consumer cfg hp
  | scan c => exact congrArg _ (decodeWord_encode hw hp)

/-- Settles O9, port by port: `decode_consumer_eq_ok` and `decodeWord_wf_encode`. -/
theorem encodeOfDecode : Obligations.EncodeOfDecode := by
  unfold Obligations.EncodeOfDecode
  intro cfg p b i h
  cases p with
  | producer =>
    cases h
    exact ⟨rfl, rfl, rfl⟩
  | consumer =>
    obtain ⟨op, rfl, rfl⟩ := decode_consumer_eq_ok h
    exact ⟨decodeCmd_wf cfg op, decodeCmd_onPort op, encode_decodeCmd cfg op⟩
  | scan c =>
    cases h
    obtain ⟨hwf, hencode⟩ := decodeWord_wf_encode cfg c b
    exact ⟨hwf, decodeWord_onPort cfg c b, hencode⟩

end Sys2Proof
end

section
/-! The class meanings are R80's iteration (41_decoder.md R80, R104, R105), and a decoder invocation is
R80's loop over the unread words. -/

namespace Sys2Proof.Machine

/-! ## One iteration -/

/-- R105: no iteration returns the character 0. -/
theorem word_char_ne_zero {cfg : Config} {f : Flags} {w c : Byte}
    (h : (Spec.word cfg f w).2 = some c) : c ≠ 0#8 := by
  have guarded {d : Byte} (hd : (if d ≠ 0#8 then some d else none) = some c) : c ≠ 0#8 := by
    split at hd
    · cases hd
      assumption
    · cases hd
  unfold Spec.word at h
  iterate 5
    split at h
    · cases h
  exact guarded h

/-- The end of an iteration as the machine writes it is the one R80 gives. -/
theorem State.wordDone_eq_afterWord (s : State) (w : Byte) :
    s.wordDone w = Spec.afterWord s (Spec.word s.cfg s.flags w) := by
  cases h : (Spec.word s.cfg s.flags w).2 with
  | none =>
    simp only [State.wordDone, Spec.afterWord, h]
    rfl
  | some c =>
    simp only [State.wordDone, Spec.afterWord, h, Option.getD_some,
      State.emit_of_ne (word_char_ne_zero h), Spec.returned]
    cases s.ctl.decodeUser <;> rfl

/-- Settles O30: `exec_decodeWord` is the machine's iteration, `State.wordDone_eq_afterWord` makes it
R80's. -/
theorem wordClassesFollowTheDecodeLoop : Obligations.WordClassesFollowTheDecodeLoop := by
  unfold Obligations.WordClassesFollowTheDecodeLoop
  intro s w
  rw [exec_decodeWord, State.wordDone_eq_afterWord]

/-! ## The whole loop -/

/-- The words left unread are the last ones. -/
theorem decodeWords_suffix (cfg : Config) (f : Flags) (ws : List Byte) :
    (Spec.decodeWords cfg f ws).2.2 <:+ ws := by
  induction ws generalizing f with
  | nil => exact List.suffix_rfl
  | cons w ws ih =>
    rw [Spec.decodeWords]
    split
    · exact List.suffix_cons ..
    · exact (ih _).trans (List.suffix_cons ..)

/-- The answer of a decoder invocation with the result `r`, on behalf of `u` (R80, R120, R121). -/
def State.answer (s : State) (u : DecodeUser) : CharResult → State
  | .none => s.answerNone u
  | .char c => s.answerChar c u

/-- The state after a decoder invocation for `u` that R80's loop ends with `r`: the result, the flags
and the words left unread. -/
def State.decodeDone (s : State) (u : DecodeUser) (r : CharResult × Flags × List Byte) : State :=
  (Spec.decoded s r.2.1 r.2.2).answer u r.1

theorem State.decodeDone_ctl (s : State) (u : DecodeUser) (r : CharResult × Flags × List Byte) :
    (s.decodeDone u r).ctl = .idle := by
  obtain ⟨_ | c, f, rest⟩ := r
  · exact State.answerNone_ctl ..
  · exact State.answerChar_ctl ..

/-- A word taken first makes no difference to where the loop ends. -/
theorem decoded_continued {s : State} (r : s.Ring) (hne : s.head ≠ s.tail) (g f : Flags)
    {rest : List Byte} (hrest : rest.length ≤ s.advanceTail.unread.length) :
    Spec.decoded (Spec.continued s.advanceTail g) f rest = Spec.decoded s f rest := by
  have hlen := congrArg List.length (State.unread_eq_cons r hne)
  have hunread : (Spec.continued s.advanceTail g).unread = s.advanceTail.unread := rfl
  have htail : (s.nextTail + (s.advanceTail.unread.length - rest.length)) % s.cfg.N =
      (s.tail + (s.unread.length - rest.length)) % s.cfg.N := by
    rw [List.length_cons] at hlen
    rw [State.nextTail, State.succIndex, Nat.mod_add_mod, hlen]
    congr 1
    omega
  simp only [Spec.decoded, hunread, ← htail]
  rfl

/-- The loop ends at its first POP on an empty ring. -/
theorem answerNone_eq_decodeDone {s : State} (r : s.Ring) (he : s.head = s.tail) (u : DecodeUser) :
    s.answerNone u = s.decodeDone u (Spec.decodeWords s.cfg s.flags s.unread) := by
  have htail : (s.tail + 0) % s.cfg.N = s.tail := Nat.mod_eq_of_lt r.tail_lt
  rw [State.unread_of_empty he]
  simp only [Spec.decodeWords, State.decodeDone, Spec.decoded, State.unread_of_empty he,
    List.length_nil, Nat.sub_zero, htail]
  cases u <;> rfl

/-- The loop ends at a word that yields a character. -/
theorem returned_eq_decodeDone {s : State} (r : s.Ring) (hne : s.head ≠ s.tail) {u : DecodeUser}
    (hc : s.ctl = .popHead (.word u)) (g : Flags) (c : Byte) :
    Spec.returned s.advanceTail g c = s.decodeDone u (.char c, g, s.advanceTail.unread) := by
  have hlen : s.unread.length - s.advanceTail.unread.length = 1 := by
    rw [State.unread_eq_cons r hne, List.length_cons, Nat.add_sub_cancel_left]
  have hu : s.advanceTail.ctl.decodeUser = u := by simp [hc, Ctl.decodeUser]
  simp only [Spec.returned, hu, State.decodeDone, Spec.decoded, hlen]
  cases u <;> rfl

/-- With fuel for every unread word the decoder's loop is the loop of R80. -/
theorem decodeLoop_eq_decodeDone {n : Nat} {s : State} {u : DecodeUser} (r : s.Ring)
    (hn : s.occupancy < n) (hc : s.ctl = .popHead (.word u)) :
    decodeLoop n s = .next (s.decodeDone u (Spec.decodeWords s.cfg s.flags s.unread)) := by
  induction n generalizing s with
  | zero => omega
  | succ n ih =>
    unfold decodeLoop
    by_cases he : s.head = s.tail
    · rw [if_pos he, hc, ← answerNone_eq_decodeDone r he]
      rfl
    have hunread := State.unread_eq_cons r he
    have hcfg : s.advanceTail.cfg = s.cfg := rfl
    have hflags : s.advanceTail.flags = s.flags := rfl
    rw [if_neg he, runWord_eq_word, State.wordDone_eq_afterWord, hcfg, hflags, hunread,
      Spec.decodeWords]
    rcases Spec.word s.cfg s.flags s.peekByte with ⟨g, _ | c⟩
    · have hgo : (Spec.continued s.advanceTail g).ctl = .popHead (.word u) := by
        simp [Spec.continued, hc, Ctl.decodeUser]
      have hless : s.advanceTail.occupancy < n := by
        rw [← State.length_unread] at hn ⊢
        rw [hunread, List.length_cons] at hn
        omega
      obtain ⟨h2, hh, ht⟩ := State.ring_advanceTail r
      have hloop := ih (s := Spec.continued s.advanceTail g) ⟨h2, hh, ht⟩ hless hgo
      have hend := decoded_continued r he g (Spec.decodeWords s.cfg g s.advanceTail.unread).2.1
        (decodeWords_suffix s.cfg g s.advanceTail.unread).length_le
      simp only [Spec.afterWord, hgo]
      refine hloop.trans (congrArg _ ?_)
      exact congrArg (State.answer · u _) hend
    · simp only [Spec.afterWord, returned_eq_decodeDone r he hc]
      exact if_pos (s.decodeDone_ctl u _)

/-- A decoder invocation is the loop of R80 over the unread words. -/
theorem State.runDecoder_eq_decodeDone {s : State} (r : s.Ring) (u : DecodeUser) :
    s.runDecoder u = .next (s.decodeDone u (Spec.decodeWords s.cfg s.flags s.unread)) :=
  have r' : ({ s with ctl := .popHead (.word u) } : State).Ring := ⟨r.two_le, r.head_lt, r.tail_lt⟩
  decodeLoop_eq_decodeDone r' (State.occupancy_lt r') rfl

end Sys2Proof.Machine
end

section
/-! The consumer port's answers (30_encoding.md R63, R64): which select code is refused, and what each
operation puts on `rsp_present` and `rsp_data`. -/

namespace Sys2Proof.Machine

/-! ## The reserved select code -/

/-- Every select code but the reserved one names an operation that always answers once it is let
run. -/
theorem exec_cmd_eq_whenIdle (s : State) {op : Cmd} (h7 : op ≠ 7#3) :
    ∃ t, exec (decodeCmd op) s = s.whenIdle (.next t) := by
  have decoder (u : DecodeUser) : ∃ t, s.runDecoder u = .next t := by
    obtain ⟨t, ht, -⟩ := decodeLoop_frame s.cfg.N { s with ctl := .popHead (.word u) }
    exact ⟨t, ht⟩
  have cachedOr (a : State) (u : DecodeUser) :
      ∃ t, (if s.cacheValid = true then .next a else s.runDecoder u) = Host.Outcome.next t := by
    split
    · exact ⟨a, rfl⟩
    · exact decoder u
  rcases cmd_cases op with rfl | rfl | rfl | rfl | rfl | rfl | rfl | rfl
  case inl | inr.inl | inr.inr.inr.inr.inr.inl | inr.inr.inr.inr.inr.inr.inl => exact ⟨_, rfl⟩
  case inr.inr.inl =>
    obtain ⟨t, ht⟩ := decoder .decode
    exact ⟨t, congrArg s.whenIdle ht⟩
  case inr.inr.inr.inl =>
    obtain ⟨t, ht⟩ := cachedOr (s.finish (.bool true)) .available
    exact ⟨t, congrArg s.whenIdle ht⟩
  case inr.inr.inr.inr.inl =>
    obtain ⟨t, ht⟩ := cachedOr s.takeCached .read
    exact ⟨t, congrArg s.whenIdle ht⟩
  case inr.inr.inr.inr.inr.inr.inr => exact absurd rfl h7

/-- A whole line or a micro-step line with the reserved code is refused (R64). -/
theorem step_of_reserved {s : State} {rest : List Input}
    (hl : s.inputs = .cmd 7#3 :: rest ∨ s.inputs = .micro 7#3 :: rest) :
    step s = .refused .reservedCommand := by
  rcases hl with hl | hl
  · exact step_of_cmd hl
  · exact step_of_micro hl

/-- Settles O40: any other code answers or overlaps (`exec_cmd_eq_whenIdle`). -/
theorem reservedCodeIsRefused : Obligations.ReservedCodeIsRefused := by
  unfold Obligations.ReservedCodeIsRefused
  refine ⟨fun _ => rfl, fun _ => rfl, fun s op h7 => ?_, fun s rest => step_of_reserved⟩
  obtain ⟨t, ht⟩ := exec_cmd_eq_whenIdle s h7
  rw [ht, State.whenIdle]
  split <;> exact nofun

/-! ## The response of each operation -/

section
variable {s : State}

theorem exec_decode_of_idle (hi : s.ctl = .idle) : exec .decode s = s.runDecoder .decode :=
  State.whenIdle_of_idle hi _

theorem exec_available_of_cached (hi : s.ctl = .idle) (hv : s.cacheValid = true) :
    exec .available s = .next (s.finish (.bool true)) :=
  (State.whenIdle_of_idle hi _).trans (if_pos hv)

theorem exec_available_of_uncached (hi : s.ctl = .idle) (hv : s.cacheValid = false) :
    exec .available s = s.runDecoder .available :=
  (State.whenIdle_of_idle hi _).trans (if_neg (by simp [hv]))

theorem exec_read_of_cached (hi : s.ctl = .idle) (hv : s.cacheValid = true) :
    exec .read s = .next s.takeCached :=
  (State.whenIdle_of_idle hi _).trans (if_pos hv)

theorem exec_read_of_uncached (hi : s.ctl = .idle) (hv : s.cacheValid = false) :
    exec .read s = s.runDecoder .read :=
  (State.whenIdle_of_idle hi _).trans (if_neg (by simp [hv]))

/-- AVAILABLE says whether the decoder yielded a character, DECODE and READ hand it on (R80, R120,
R121). -/
theorem State.decodeDone_rsp (s : State) (u : DecodeUser) (r : CharResult × Flags × List Byte) :
    (s.decodeDone u r).rsp = if u = .available then .bool (r.1 != .none) else .char r.1 := by
  obtain ⟨_ | c, f, rest⟩ := r <;> cases u <;> rfl

/-- CLEAR, FLUSH and BEGIN have no result. -/
theorem exec_rsp_done (hi : s.ctl = .idle) {i : Instr} (h : i = .clear ∨ i = .flush ∨ i = .beginOp) :
    ∃ t, exec i s = .next t ∧ t.rsp = .done := by
  rcases h with rfl | rfl | rfl <;> exact ⟨_, State.whenIdle_of_idle hi _, rfl⟩

/-- DECODE, and READ with an empty cache, answer the result of R80's loop. -/
theorem exec_rsp_char (r : s.Ring) (hi : s.ctl = .idle) {i : Instr}
    (h : i = .decode ∨ i = .read ∧ s.cacheValid = false) :
    ∃ t, exec i s = .next t ∧
      t.rsp = .char (Spec.decodeWords s.cfg s.flags s.unread).1 := by
  rcases h with rfl | ⟨rfl, hv⟩
  · exact ⟨_, (exec_decode_of_idle hi).trans (State.runDecoder_eq_decodeDone r _),
      State.decodeDone_rsp ..⟩
  · exact ⟨_, (exec_read_of_uncached hi hv).trans (State.runDecoder_eq_decodeDone r _),
      State.decodeDone_rsp ..⟩

/-- AVAILABLE answers whether a character is cached or R80's loop yields one. -/
theorem exec_available_rsp (r : s.Ring) (hi : s.ctl = .idle) :
    ∃ t, exec .available s = .next t ∧ t.rsp = .bool (s.cacheValid ||
      (Spec.decodeWords s.cfg s.flags s.unread).1 != .none) := by
  cases hv : s.cacheValid
  · exact ⟨_, (exec_available_of_uncached hi hv).trans (State.runDecoder_eq_decodeDone r _),
      State.decodeDone_rsp ..⟩
  · exact ⟨_, exec_available_of_cached hi hv, rfl⟩

/-- POP answers the oldest unread byte, or `Empty` when there is none (R71). -/
theorem exec_pop_rsp (r : s.Ring) (hi : s.ctl = .idle) :
    ∃ t, exec .pop s = .next t ∧ t.rsp = .raw (s.unread.head?.elim .empty .byte) := by
  by_cases he : s.head = s.tail
  · exact ⟨_, exec_pop_of_empty hi he, by simp [State.unread_of_empty he]⟩
  · exact ⟨_, exec_pop_of_nonempty hi he, by simp [State.unread_eq_cons r he]⟩

end

/-- Settles O60: the response each operation ends with, read on the two signals of the port. -/
theorem responsePortFollowsItsTable : Obligations.ResponsePortFollowsItsTable := by
  unfold Obligations.ResponsePortFollowsItsTable
  intro s hs hi
  have r := State.ring_of_inv hs
  refine ⟨?pop, fun i h => ?done, fun i h => ?char, fun hv => ?cached, ?available⟩
  case pop =>
    obtain ⟨t, ht, hrsp⟩ := exec_pop_rsp r hi
    refine ⟨t, ht, fun hu => ?_, fun b rest hu => ?_⟩ <;> rw [hrsp, hu] <;> exact ⟨rfl, rfl⟩
  case done =>
    obtain ⟨t, ht, hrsp⟩ := exec_rsp_done hi h
    refine ⟨t, ht, ?_⟩
    rw [hrsp]
    exact ⟨rfl, rfl⟩
  case char =>
    obtain ⟨t, ht, hrsp⟩ := exec_rsp_char r hi h
    refine ⟨t, ht, fun hd => ?_, fun c hd => ?_⟩ <;> rw [hrsp, hd] <;> exact ⟨rfl, rfl⟩
  case cached => exact ⟨_, exec_read_of_cached hi hv, rfl, rfl⟩
  case available =>
    obtain ⟨t, ht, hrsp⟩ := exec_available_rsp r hi
    refine ⟨t, ht, ?_⟩
    rw [hrsp]
    exact ⟨rfl, rfl⟩

end Sys2Proof.Machine
end

section
/-! Pseudo-operations (30_encoding.md R66): a row of PUSHes, and what it appends to the unread bytes. -/

namespace Sys2Proof.Machine

/-- A row of PUSHes writes the storage and `HEAD` alone. -/
theorem State.pushBytes_frame (s : State) (bs : List Byte) :
    ∃ m i, s.pushBytes bs = { s with buf := m, head := i } := by
  induction bs generalizing s with
  | nil => exact ⟨_, _, rfl⟩
  | cons b bs ih =>
    obtain ⟨m, i, hrest⟩ := ih (s.pushByte b)
    refine ⟨m, i, hrest.trans ?_⟩
    by_cases h : s.nextHead = s.tail
    · rw [State.pushByte_of_full h]
    · rw [State.pushByte_of_room h]

/-- A row of PUSHes appends its bytes as far as there is room (R70, R74). -/
theorem State.unread_pushBytes {s : State} (hS : s.Sound) (bs : List Byte) :
    (s.pushBytes bs).unread = s.unread ++ bs.take (s.cfg.N - 1 - s.occupancy) := by
  induction bs generalizing s with
  | nil => simp [State.pushBytes]
  | cons b bs ih =>
    have hpush := State.unread_pushByte hS.ring hS.buf_wf b
    have hrest := ih (hS.pushByte b)
    rw [← State.length_unread, hpush, State.pushByte_cfg] at hrest
    rw [← State.length_unread]
    refine hrest.trans ?_
    split
    case isTrue hroom =>
      have hone : s.cfg.N - 1 - s.unread.length = s.cfg.N - 1 - (s.unread ++ [b]).length + 1 := by
        rw [List.length_append, List.length_singleton]
        omega
      rw [hone, List.take_succ_cons, List.append_assoc, List.singleton_append]
    case isFalse hfull =>
      rw [Nat.sub_eq_zero_of_le (Nat.le_of_not_lt hfull), List.take_zero, List.take_zero]

/-- Settles O59: a pseudo-operation's lines are a row of PUSHes. -/
theorem pseudoOperationsPushTheirBytes : Obligations.PseudoOperationsPushTheirBytes := by
  unfold Obligations.PseudoOperationsPushTheirBytes
  intro s k hs p bytes hp
  obtain rfl : p.bytes = bytes := by
    simp only [List.mem_cons, Prod.mk.injEq, List.not_mem_nil, or_false] at hp
    rcases hp with ⟨rfl, rfl⟩ | ⟨rfl, rfl⟩ | ⟨rfl, rfl⟩ | ⟨rfl, rfl⟩ | ⟨rfl, rfl⟩ | ⟨rfl, rfl⟩ <;> rfl
  have hS := (s.inv_iff_sound.1 hs).1
  have hrun := s.runLines_rxLines p.bytes []
  rw [List.append_nil, State.runLines_nil] at hrun
  obtain ⟨m, i, hframe⟩ := s.pushBytes_frame p.bytes
  refine ⟨rfl, _, hrun, State.unread_pushBytes hS p.bytes, ?_⟩
  rw [hframe]

end Sys2Proof.Machine
end

section
/-! The forms of results and registers (30_encoding.md R59, R61) and the default output
bytes (70_reset_and_hazards.md R167). -/

namespace Sys2Proof.Machine

/-- A widened character is its byte (R59). -/
theorem CharResult.widen_char_toNat (c : Byte) : (CharResult.widen (.char c)).toNat = c.toNat :=
  BitVec.toNat_setWidth_of_le (by decide)

/-- No character widens to `None`'s 0xFFFF. -/
theorem CharResult.widen_char_ne_none (c : Byte) :
    CharResult.widen (.char c) ≠ CharResult.widen .none := by
  intro h
  have hc := congrArg BitVec.toNat h
  rw [CharResult.widen_char_toNat, CharResult.widen, BitVec.toNat_ofNat] at hc
  omega

/-- Settles O56: the widening keeps a character's byte, and no byte is 0xFFFF. -/
theorem widenedResults : Obligations.WidenedResults := by
  unfold Obligations.WidenedResults
  refine ⟨rfl, rfl, fun c hc => ⟨CharResult.widen_char_toNat c, ?_, ?_⟩, fun r q h => ?_⟩
  · exact Nat.pos_of_ne_zero fun h0 => hc (BitVec.eq_of_toNat_eq h0)
  · exact Nat.le_of_lt_succ c.isLt
  · match r, q with
    | .none, .none => rfl
    | .none, .char c => exact absurd h.symm (CharResult.widen_char_ne_none c)
    | .char c, .none => exact absurd h (CharResult.widen_char_ne_none c)
    | .char c, .char d =>
      have hcd := congrArg BitVec.toNat h
      rw [CharResult.widen_char_toNat, CharResult.widen_char_toNat] at hcd
      rw [BitVec.eq_of_toNat_eq hcd]

/-- R61, flag by flag. -/
theorem Flags.pack_getLsbD (f : Flags) :
    f.pack.getLsbD 0 = f.brk ∧ f.pack.getLsbD 1 = f.modifier ∧
    f.pack.getLsbD 2 = f.shiftLeft ∧ f.pack.getLsbD 3 = f.shiftRight := by
  obtain ⟨b, m, l, r⟩ := f
  revert b m l r
  decide

theorem Flags.unpack_pack (f : Flags) : Flags.unpack f.pack = f := by
  obtain ⟨hb, hm, hl, hr⟩ := f.pack_getLsbD
  rw [Flags.unpack, hb, hm, hl, hr]

/-- Four bits are the packing of the flags they stand for. -/
theorem Flags.pack_unpack : ∀ v : BitVec 4, (Flags.unpack v).pack = v := by
  decide

/-- Settles O57, by the bits of the packing. -/
theorem stateRegisterPacking : Obligations.StateRegisterPacking := by
  unfold Obligations.StateRegisterPacking
  exact ⟨Flags.pack_getLsbD, Flags.unpack_pack, Flags.pack_unpack, rfl⟩

set_option maxRecDepth 2000 in -- the lookup tables have 128 entries each
/-- Settles O58, by evaluation: the default sentinels are at or above 128, every other byte below. -/
theorem defaultConfigurationKeepsBytesApart : Obligations.DefaultConfigurationKeepsBytesApart := by
  unfold Obligations.DefaultConfigurationKeepsBytesApart
  decide

end Sys2Proof.Machine
end

section
/-! The opcode table, read with its priorities, selects the row that the tests of R51 give
(30_encoding.md R51, R67). Sixteen of its rows fix the whole byte, so that what they select is checked
byte by byte; the other five exclude one another by their context columns and bit 7. -/

namespace Sys2Proof

/-- The instructions of the rows a word selects under a context. -/
def selectedInstrs (c : Context) (s : Byte) : List Instr := (selectedRows c s).map (fun r => r.instr s)

/-! ## A row that fixes the byte applies -/

/-- A row that fixes the whole byte applies to the word. -/
def fixedRowApplies (c : Context) (s : Byte) : Bool :=
  scanRows.any (fun r => r.mask == 0xFF#8 && r.applies c s)

theorem fixedRowApplies_iff (c : Context) (s : Byte) :
    fixedRowApplies c s = true ↔ ∃ r ∈ scanRows, r.mask = 0xFF#8 ∧ r.applies c s = true := by
  simp [fixedRowApplies]

/-- A row that fixes the whole byte applies to that byte alone. -/
theorem ScanRow.eq_mtch_of_applies {r : ScanRow} {c : Context} {s : Byte} (hm : r.mask = 0xFF#8)
    (h : r.applies c s = true) : s = r.mtch := by
  simp only [ScanRow.applies, Bool.and_eq_true, beq_iff_eq] at h
  rw [← h.1.1.1, hm]
  exact BitVec.and_allOnes.symm

/-- The bytes of the sixteen rows, under every context they apply in. -/
theorem selectedInstrs_mtch : ∀ r ∈ scanRows, r.mask = 0xFF#8 → ∀ b m sh : Bool,
    r.applies ⟨b, m, sh⟩ r.mtch = true →
      selectedInstrs ⟨b, m, sh⟩ r.mtch = [decodeWord Config.default ⟨b, m, sh⟩ r.mtch] := by
  decide

theorem selectedInstrs_of_fixed {c : Context} {s : Byte} (h : fixedRowApplies c s = true) :
    selectedInstrs c s = [decodeWord Config.default c s] := by
  obtain ⟨r, hr, hm, ha⟩ := (fixedRowApplies_iff c s).1 h
  obtain rfl := ScanRow.eq_mtch_of_applies hm ha
  exact selectedInstrs_mtch r hr hm c.brk c.modifier c.shift ha

theorem fixedRowApplies_break_extended : ∀ b m sh : Bool,
    fixedRowApplies ⟨b, m, sh⟩ 0xF0#8 = true ∧ fixedRowApplies ⟨b, m, sh⟩ 0xE0#8 = true := by
  decide

theorem fixedRowApplies_shift : ∀ m sh : Bool,
    fixedRowApplies ⟨false, m, sh⟩ 0x12#8 = true ∧ fixedRowApplies ⟨false, m, sh⟩ 0x59#8 = true := by
  decide

theorem fixedRowApplies_key : ∀ k ∈ ExtKey.all, ∀ sh : Bool,
    fixedRowApplies ⟨false, true, sh⟩ (Config.default.extCode.get k) = true := by
  decide

/-! ## No such row applies -/

/-- The five rows that take the word as their operand. -/
def operandRows : List ScanRow := scanRows.filter (fun r => r.mask != 0xFF#8)

/-- Where no row that fixes the byte applies, the five others are left. -/
theorem filter_applies_eq_operandRows {c : Context} {s : Byte} (h : fixedRowApplies c s = false) :
    scanRows.filter (fun r => r.applies c s) = operandRows.filter (fun r => r.applies c s) := by
  rw [operandRows, List.filter_filter]
  refine List.filter_congr fun r hr => ?_
  cases ha : r.applies c s
  · rfl
  · have hm : r.mask ≠ 0xFF#8 := fun hm =>
      absurd ((fixedRowApplies_iff c s).2 ⟨r, hr, hm, ha⟩) (by simp [h])
    simpa using hm

/-- The five rows are told apart by BREAK, MODIFIER, bit 7 and SHIFT, in that order. -/
theorem selectedInstrs_of_not_fixed {c : Context} {s : Byte} (h : fixedRowApplies c s = false) :
    selectedInstrs c s =
      [if c.brk = true then .scRel s
       else if c.modifier = true then .scXnone s
       else if 128 ≤ s.toNat then .scHigh s
       else if c.shift = true then .scKeys s
       else .scKeyu s] := by
  obtain ⟨b, m, sh⟩ := c
  have hbit7 : s &&& 0x80#8 = if 128 ≤ s.toNat then 0x80#8 else 0x00#8 := by
    split
    · exact Laws.TableBits.bit7_of_high s ‹_›
    · exact Laws.TableBits.bit7_of_low s (by omega)
  simp only [selectedInstrs, selectedRows, filter_applies_eq_operandRows h]
  simp only [operandRows, scanRows, ScanRow.extended]
  cases b
  case true => simp [ScanRow.applies, columnHolds]
  cases m
  case true => simp [ScanRow.applies, columnHolds]
  by_cases hs : 128 ≤ s.toNat
  · simp [ScanRow.applies, columnHolds, hbit7, hs]
  · cases sh <;> simp [ScanRow.applies, columnHolds, hbit7, hs]

/-! ## The statements -/

/-- Settles O7, by evaluation of the decoder on the printed words. -/
theorem wordsDecodeAsPrinted : Obligations.WordsDecodeAsPrinted := by
  unfold Obligations.WordsDecodeAsPrinted
  exact ⟨rfl, rfl, rfl, rfl, rfl, rfl, rfl, rfl, rfl, rfl, rfl, rfl⟩

/-- Settles O10: a word that a row fixes by its byte is checked (`selectedInstrs_of_fixed`), and any
other selects the row that takes it as an operand (`selectedInstrs_of_not_fixed`). -/
theorem oneTableRowPerWord : Obligations.OneTableRowPerWord := by
  unfold Obligations.OneTableRowPerWord
  intro c s
  change selectedInstrs c s = _
  cases hf : fixedRowApplies c s
  case true => exact selectedInstrs_of_fixed hf
  have hsel := selectedInstrs_of_not_fixed hf
  obtain ⟨b, m, sh⟩ := c
  rcases decodeWord_cases Config.default ⟨b, m, sh⟩ s with ⟨rfl, -⟩ | ⟨-, rfl, -⟩ | ⟨-, -, rfl, e⟩ |
    ⟨rfl, rfl, -⟩ | ⟨rfl, rfl, -⟩ | ⟨-, rfl, rfl, e⟩ | ⟨-, rfl, rfl, hs, e⟩ | ⟨-, rfl, rfl, hs, rfl, e⟩ |
    ⟨-, rfl, rfl, hs, rfl, e⟩
  case inl => exact absurd (fixedRowApplies_break_extended b m sh).1 (by simp [hf])
  case inr.inl => exact absurd (fixedRowApplies_break_extended b m sh).2 (by simp [hf])
  case inr.inr.inr.inl => exact absurd (fixedRowApplies_shift m sh).1 (by simp [hf])
  case inr.inr.inr.inr.inl => exact absurd (fixedRowApplies_shift m sh).2 (by simp [hf])
  case inr.inr.inl =>
    rw [hsel, e]
    rfl
  case inr.inr.inr.inr.inr.inl =>
    rw [hsel, e]
    rcases decodeExtended_cases Config.default s with ⟨-, e'⟩ | ⟨k, -, hk, -⟩
    · rw [e']
      rfl
    · rw [← Config.code_of_keyOf hk] at hf
      exact absurd (fixedRowApplies_key k k.mem_all sh) (by simp [hf])
  all_goals
    rw [hsel, e]
    simp [hs]

end Sys2Proof
end

section
/-! PUSH, POP and CLEAR as whole operations (40_ring_buffer.md R70 to R72, R74): what each does and
what it leaves unchanged. -/

namespace Sys2Proof.Machine

/-! ## What each operation does -/

theorem exec_push (s : State) (b : Byte) : exec (.push b) s = .next (s.pushByte b) := rfl

theorem exec_clear_of_idle {s : State} (hi : s.ctl = .idle) :
    exec .clear s = .next ((s.setTail s.head).finish .done) :=
  State.whenIdle_of_idle hi _

theorem exec_flush_of_idle {s : State} (hi : s.ctl = .idle) :
    exec .flush s = .next ((s.setTail s.head).flushCache.finish .done) :=
  State.whenIdle_of_idle hi _

/-- On an idle block the end of an operation writes the response alone. -/
theorem State.finish_of_idle {s : State} (hi : s.ctl = .idle) (r : Response) :
    s.finish r = { s with rsp := r } := by
  rw [State.finish, ← hi]

/-- A PUSH writes no slot but the one after `HEAD`, and none when the ring is full. -/
theorem State.read_pushByte {s : State} (hwf : s.buf.wf = true) (b : Byte) {a : Nat}
    (ha : a ≠ s.nextHead ∨ s.nextHead = s.tail) : (s.pushByte b).buf.read a = s.buf.read a := by
  rw [State.pushByte_buf]
  split
  case isTrue => rfl
  case isFalse hroom => rw [Memory.read_write hwf, if_neg (ha.resolve_right hroom)]

/-! ## The statements -/

/-- Settles O11: `exec_push`, and the fullness test as R70 writes it. -/
theorem pushStoresOrDrops : Obligations.PushStoresOrDrops := by
  unfold Obligations.PushStoresOrDrops
  exact ⟨fun _ _ => rfl, exec_push⟩

/-- Settles O12: a PUSH into a full ring is the identity (`State.pushByte_of_full`). -/
theorem fullBufferDropsTheIncomingByte : Obligations.FullBufferDropsTheIncomingByte := by
  unfold Obligations.FullBufferDropsTheIncomingByte
  intro s b hfull
  rw [exec_push, State.pushByte_of_full hfull]

/-- Settles O13, by the two cases of POP. -/
theorem popReturnsTheOldest : Obligations.PopReturnsTheOldest := by
  unfold Obligations.PopReturnsTheOldest
  refine ⟨fun _ => rfl, fun s hi => ?_⟩
  split
  case isTrue he => rw [exec_pop_of_empty hi he, State.finish_of_idle hi]
  case isFalse hne =>
    rw [exec_pop_of_nonempty hi hne, State.finish_of_idle (s := s.advanceTail) hi]
    rfl

/-- Settles O14: the ring is empty where `TAIL` is `HEAD`. -/
theorem clearDiscardsUnread : Obligations.ClearDiscardsUnread := by
  unfold Obligations.ClearDiscardsUnread
  refine ⟨fun _ => rfl, fun s hi => ⟨?_, State.unread_of_empty rfl⟩⟩
  rw [exec_clear_of_idle hi, State.finish_of_idle (s := s.setTail s.head) hi]
  rfl

/-- Settles O19: FLUSH and CLEAR leave an idle block with an empty ring, where POP answers `Empty`. -/
theorem popAfterFlushIsEmpty : Obligations.PopAfterFlushIsEmpty := by
  unfold Obligations.PopAfterFlushIsEmpty
  intro s hi
  have popped {t : State} (hidle : t.ctl = .idle) (hhead : t.head = s.head) (htail : t.tail = s.head) :
      ∃ u, exec .pop t = .next u ∧ u.rsp = .raw .empty ∧ u.head = s.head ∧ u.tail = s.head :=
    ⟨_, exec_pop_of_empty hidle (hhead.trans htail.symm), rfl, hhead, htail⟩
  obtain ⟨u, hflush⟩ := popped (t := (s.setTail s.head).flushCache.finish .done) rfl (by simp) (by simp)
  obtain ⟨v, hclear⟩ := popped (t := (s.setTail s.head).finish .done) rfl rfl rfl
  exact ⟨⟨_, u, exec_flush_of_idle hi, hflush⟩, ⟨_, v, exec_clear_of_idle hi, hclear⟩⟩

/-- Settles O20: PUSH writes `HEAD` and one slot (`State.read_pushByte`), POP and CLEAR write `TAIL`
and the response. -/
theorem ringOperationsFrame : Obligations.RingOperationsFrame := by
  unfold Obligations.RingOperationsFrame
  refine ⟨?push, ?consumer⟩
  case push =>
    rintro s _ b ⟨⟩
    refine ⟨?_, ?_, ?_, ?_, ?_, ?_, ?_, ?_, ?_, fun hwf a => State.read_pushByte hwf b⟩ <;> simp
  case consumer =>
    rintro i s t (rfl | rfl) h
    case inl =>
      obtain ⟨-, ⟨⟩⟩ := State.whenIdle_eq_next h
      split <;> simp
    case inr =>
      obtain ⟨-, ⟨⟩⟩ := State.whenIdle_eq_next h
      simp

end Sys2Proof.Machine
end

section
/-! The ring is a bounded first-in first-out queue (40_ring_buffer.md R73 to R75): one PUSH or POP
line does to the unread bytes what it does to the queue. -/

namespace Sys2Proof.Machine

/-- What the consumer sees after the trace line `l`: the response of a whole operation, nothing after
any other line. -/
def State.answerTo (t : State) : Input → List Response
  | .cmd _ => [t.rsp]
  | .rx _ => []
  | .micro _ => []

/-- The answers over a list of lines, its first line taken. -/
theorem answers_cons {s t t' : State} {l : Input} {ls : List Input} {rs : List Response}
    (h : step (s.withInputs [l]) = .next t) (ht : Spec.answers t ls = some (t', rs)) :
    Spec.answers s (l :: ls) = some (t', t.answerTo l ++ rs) := by
  have h' : step { s with inputs := [l] } = .next t := h
  rw [Spec.answers, h']
  simp only [ht, Option.map_some]
  cases l <;> rfl

/-- POP takes from the unread bytes, and answers, what the queue gives. -/
theorem exec_pop_queueLine {s : State} (r : s.Ring) (hi : s.ctl = .idle) (cap : Nat) (op : Cmd) :
    ∃ t, exec .pop s = .next t ∧ t.ctl = .idle ∧
      Spec.queueLine cap s.unread (.cmd op) = (t.unread, [t.rsp]) := by
  by_cases he : s.head = s.tail
  · have hunread : (s.finish (.raw .empty)).unread = [] := State.unread_of_empty he
    refine ⟨_, exec_pop_of_empty hi he, rfl, ?_⟩
    rw [State.unread_of_empty he, hunread]
    rfl
  · refine ⟨_, exec_pop_of_nonempty hi he, rfl, ?_⟩
    rw [State.unread_eq_cons r he]
    rfl

/-- A ring line does to the unread bytes what it does to the queue, with the queue's answer. -/
theorem step_ringLine {s : State} {l : Input} (hs : s.inv = true) (hi : s.ctl = .idle)
    (hl : Spec.isRingLine l = true) :
    ∃ t, step (s.withInputs [l]) = .next t ∧ t.ctl = .idle ∧
      Spec.queueLine (s.cfg.N - 1) s.unread l = (t.unread, t.answerTo l) := by
  have hS := ((State.inv_iff_sound _).1 (State.inv_withInputs hs [])).1
  cases l with
  | rx b =>
    refine ⟨_, step_rx rfl, (State.pushByte_ctl ..).trans hi, Prod.ext ?_ rfl⟩
    exact (State.unread_pushByte hS.ring hS.buf_wf b).symm
  | cmd op =>
    obtain rfl : op = 0#3 := by simpa [Spec.isRingLine] using hl
    have hstep : step (s.withInputs [.cmd 0#3]) = exec .pop (s.withInputs []) :=
      step_of_cmd (op := 0#3) rfl
    obtain ⟨t, hpop, hidle, hqueue⟩ :=
      exec_pop_queueLine (s := s.withInputs []) hS.ring hi (s.cfg.N - 1) 0#3
    exact ⟨t, hstep.trans hpop, hidle, hqueue⟩
  | micro op => cases hl

/-- Settles O15, by induction on the lines: each keeps the invariant, the parameters and the idle
block, and `step_ringLine` says what it does to the queue. -/
theorem ringIsABoundedQueue : Obligations.RingIsABoundedQueue := by
  unfold Obligations.RingIsABoundedQueue
  intro s lines hs hi hlines
  induction lines generalizing s with
  | nil => exact ⟨s, rfl, rfl⟩
  | cons l ls ih =>
    rw [List.all_cons, Bool.and_eq_true] at hlines
    obtain ⟨t, hstep, hidle, hqueue⟩ := step_ringLine hs hi hlines.1
    have hinv := (step_cases hstep).keeps_inv (State.inv_withInputs hs [l])
    have hcfg : t.cfg = s.cfg := step_cfg (s := s.withInputs [l]) hstep
    obtain ⟨t', hanswers, hunread⟩ := ih t hinv hidle hlines.2
    rw [hcfg] at hanswers hunread
    refine ⟨t', ?_, ?_⟩
    · rw [answers_cons hstep hanswers, Spec.queueLines, hqueue]
    · rw [Spec.queueLines, hqueue, hunread]

end Sys2Proof.Machine
end

section
/-! The micro-steps of the consumer operations (40_ring_buffer.md R76), and CLEAR with PUSHes between
its two (R72, R164). -/

namespace Sys2Proof.Machine

/-! ## The table of R76 -/

/-- A micro-step is read off the place it stands at. -/
theorem State.microStep_at {s : State} {c : Ctl} (hc : s.ctl = c) :
    s.microStep = ({ s with ctl := c } : State).microStep := by
  subst hc
  rfl

/-- The cache part of FLUSH as one write. -/
theorem State.flushCache_eq (s : State) : s.flushCache =
    { s with cacheValid := if s.cfg.flushClearsCache = true then false else s.cacheValid } := by
  unfold State.flushCache
  split <;> rfl

/-- The reserved code is that of no operation in progress (R64). -/
theorem Ctl.code_ne_seven (c : Ctl) : c.code ≠ some 7#3 := by
  have pop (u : PopUser) : some u.code ≠ some 7#3 := by
    cases u with
    | direct => decide
    | word u => exact fun h => u.code_ne_seven (Option.some.inj h)
  have clear (u : ClearUser) : some u.code ≠ some 7#3 := by cases u <;> decide
  cases c with
  | popHead u | popSlot u | popTail u => exact pop u
  | clearHead u | clearTail u => exact clear u
  | idle | beginCfg | beginHead | beginTail => decide

/-- A micro-step line of the operation in progress runs its next micro-step, and so does a step with
no line left (log entry 7). -/
theorem step_of_onward {s : State} {rest : List Input}
    (h : (s.inputs = [] ∧ rest = []) ∨ ∃ op, s.ctl.code = some op ∧ s.inputs = .micro op :: rest) :
    step s = (s.withInputs rest).microStep := by
  rcases h with ⟨hl, rfl⟩ | ⟨op, hop, hl⟩
  · rw [step_of_nil hl, State.withInputs, ← hl]
  · have h7 : op ≠ 7#3 := by
      rintro rfl
      exact s.ctl.code_ne_seven hop
    rw [step_of_micro hl]
    exact State.microLine_of_code (s := s.withInputs rest) h7 hop

/-- Settles O48: the step is the micro-step (`step_of_onward`), read off its place
(`State.microStep_at`). -/
theorem microStepsFollowTheTable : Obligations.MicroStepsFollowTheTable := by
  unfold Obligations.MicroStepsFollowTheTable
  intro s rest h
  rw [step_of_onward h]
  have place {c : Ctl} (hc : s.ctl = c) := State.microStep_at (s := s.withInputs rest) hc
  have empty {u : PopUser} (hc : s.ctl = .popHead u) (he : s.head = s.tail) :=
    State.microStep_of_empty (s := s.withInputs rest) hc he
  refine ⟨fun u => State.microStep_of_nonempty (s := s.withInputs rest), empty, ?decoder, empty,
    fun u => place, fun b => place, ?word, fun u => place, fun i => place, ?flush, place, place, place⟩
  case decoder =>
    rintro (hc | hc) he
    · exact empty hc he
    · exact empty hc he
  case word =>
    intro u b hc
    rw [State.microStep_of_word (s := s.withInputs rest) hc]
    exact (exec_decodeWord (s.withInputs rest).advanceTail b).trans
      (congrArg _ (State.wordDone_eq_afterWord _ b))
  case flush =>
    intro i hc
    refine (place hc).trans ?_
    simp only [State.microStep, State.endClear, State.flushCache_eq]
    rfl

/-! ## CLEAR with PUSHes between its two micro-steps -/

/-- CLEAR.2 writes the `HEAD` that CLEAR.1 read, the ring as the PUSHes between them left it. -/
theorem runLines_clear_between_pushes {s : State} (hi : s.ctl = .idle) (bs : List Byte) :
    s.runLines (.micro 1#3 :: (rxLines bs ++ [.micro 1#3])) =
      .next ((((s.pushBytes bs).setTail s.head).finish .done).withInputs []) := by
  have h1 : s.microLine 1#3 = .next { s with ctl := .clearTail .clear s.head } :=
    State.microLine_of_idle (by decide) hi
  rw [State.runLines_micro h1, State.runLines_rxLines, State.pushBytes_withCtl]
  have h2 : ({ s.pushBytes bs with ctl := .clearTail .clear s.head } : State).microLine 1#3 =
      .next (((s.pushBytes bs).setTail s.head).finish .done) :=
    State.microLine_of_code (by decide) rfl
  exact State.runLines_micro h2 []

/-- The old `HEAD` written to `TAIL` drops the bytes that were unread, and keeps those pushed behind
them. -/
theorem State.unread_pushBytes_setTail {s : State} (hS : s.Sound) (bs : List Byte) :
    ((s.pushBytes bs).setTail s.head).unread = bs.take (s.cfg.N - 1 - s.occupancy) := by
  have hS' := hS.pushBytes bs
  have hunread := State.unread_pushBytes hS bs
  have hlen := congrArg List.length hunread
  rw [List.length_append, State.length_unread, State.length_unread] at hlen
  obtain ⟨m, i, hframe⟩ := s.pushBytes_frame bs
  have hcfg : (s.pushBytes bs).cfg = s.cfg := by rw [hframe]
  have htail : (s.pushBytes bs).tail = s.tail := by rw [hframe]
  have hgone : (s.head + (s.pushBytes bs).cfg.N - (s.pushBytes bs).tail) % (s.pushBytes bs).cfg.N =
      s.occupancy := by
    rw [hcfg, htail]
    rfl
  rw [State.unread_setTail hS'.ring (by rw [hcfg]; exact hS.head_lt) (by omega), hgone, hunread,
    List.drop_left' s.length_unread]

/-- Settles O51, by `runLines_clear_between_pushes` and `State.unread_pushBytes_setTail`. -/
theorem clearKeepsBytesPushedAfterItsRead : Obligations.ClearKeepsBytesPushedAfterItsRead := by
  unfold Obligations.ClearKeepsBytesPushedAfterItsRead
  intro s bs hs hi
  have hS := (s.inv_iff_sound.1 hs).1
  exact ⟨_, runLines_clear_between_pushes hi bs, State.unread_pushBytes_setTail hS bs, rfl, rfl⟩

end Sys2Proof.Machine
end

section
/-! The twenty-one classes of scan-code word, one by one (41_decoder.md R81 to R105): which class a
word is, what the class does to the flags, and what every class leaves unchanged. -/

namespace Sys2Proof

/-- A code below 128 other than the two shift keys is looked up: both prefixes lie above. -/
theorem isLookupCode_of_low {w : Byte} (hlow : w.toNat < 128) (h12 : w ≠ 0x12#8) (h59 : w ≠ 0x59#8) :
    isLookupCode w = true := by
  have hF0 : w ≠ 0xF0#8 := by
    rintro rfl
    exact absurd hlow (by decide)
  have hE0 : w ≠ 0xE0#8 := by
    rintro rfl
    exact absurd hlow (by decide)
  exact (Machine.isLookupCode_iff w).2 ⟨hF0, hE0, h12, h59⟩

/-- The extended-key table of an admitted configuration: no two keys share a scan code, and no key's
output is 0 (R20). -/
theorem Config.ext_of_wf {cfg : Config} (h : cfg.wf = true) :
    (ExtKey.all.map cfg.extCode.get).Nodup ∧ ∀ k, cfg.extOut.get k ≠ 0#8 := by
  simp only [Config.wf, Config.extWf, Bool.and_eq_true, decide_eq_true_eq, List.all_eq_true,
    bne_iff_ne, and_assoc] at h
  obtain ⟨-, -, hcodes, hout, -⟩ := h
  exact ⟨hcodes, fun k => hout k (ExtKey.mem_all k)⟩

end Sys2Proof

namespace Sys2Proof.Machine

/-! ## The prefixes, a release and a shift press -/

/-- Settles O21: test 1 of R51, and the class's meaning as it stands. -/
theorem breakPrefixSetsBreak : Obligations.BreakPrefixSetsBreak := by
  unfold Obligations.BreakPrefixSetsBreak
  exact ⟨fun _ _ => rfl, fun _ => rfl⟩

/-- Settles O22: test 2 of R51, and the class's meaning as it stands. -/
theorem extendedPrefixSetsModifier : Obligations.ExtendedPrefixSetsModifier := by
  unfold Obligations.ExtendedPrefixSetsModifier
  exact ⟨fun _ _ => rfl, fun _ => rfl⟩

/-- Test 3 of R51: with BREAK pending a key-identifying code is a release. -/
theorem decodeWord_of_brk (cfg : Config) {c : Context} {w : Byte} (hF0 : w ≠ 0xF0#8)
    (hE0 : w ≠ 0xE0#8) (hb : c.brk = true) : decodeWord cfg c w = .scRel w := by
  rw [decodeWord, if_neg hF0, if_neg hE0, if_pos hb]

/-- Settles O23: test 3 of R51, and the class's meaning as it stands. -/
theorem releaseEmitsNothing : Obligations.ReleaseEmitsNothing := by
  unfold Obligations.ReleaseEmitsNothing
  exact ⟨fun cfg _ _ => decodeWord_of_brk cfg, fun _ _ => rfl⟩

/-- The left-shift press flag by flag. -/
theorem Flags.pressLeft_eq (f : Flags) (clearsPrefix : Bool) : f.pressLeft clearsPrefix =
    ⟨f.brk, if clearsPrefix = true then false else f.modifier, true, f.shiftRight⟩ := by
  cases clearsPrefix <;> rfl

/-- The right-shift press flag by flag. -/
theorem Flags.pressRight_eq (f : Flags) (clearsPrefix : Bool) : f.pressRight clearsPrefix =
    ⟨f.brk, if clearsPrefix = true then false else f.modifier, f.shiftLeft, true⟩ := by
  cases clearsPrefix <;> rfl

/-- Settles O24: tests 4 and 5 of R51, and the flags of the two presses. -/
theorem shiftPressLatches : Obligations.ShiftPressLatches := by
  unfold Obligations.ShiftPressLatches
  refine ⟨fun cfg c hb => ?_, fun s => ?_, fun s => ?_⟩
  · simp [decodeWord, hb]
  · rw [← Flags.pressLeft_eq]
    rfl
  · rw [← Flags.pressRight_eq]
    rfl

/-! ## The looked-up words -/

/-- The end of a looked-up word: BREAK and MODIFIER go, then a zero byte continues the loop
and any other is returned (R104, R105). -/
theorem State.resolved_eq (s : State) (b : Byte) : s.resolved b =
    if b = 0#8 then Spec.continued s s.flags.clearPrefix
    else Spec.returned s s.flags.clearPrefix b := by
  unfold State.resolved State.emit Spec.returned
  split
  · rfl
  · simp only
    cases s.ctl.decodeUser <;> rfl

/-- Settles O25: the code of a reachable key is its class (`decodeWord_code`), and the class finds
the key's own output, which is not 0. -/
theorem extendedKeysReturnTheirBytes : Obligations.ExtendedKeysReturnTheirBytes := by
  unfold Obligations.ExtendedKeysReturnTheirBytes
  refine ⟨fun cfg c k hk hb hm => decodeWord_code hk (c.extended_iff.2 ⟨hb, hm⟩), fun s k hwf => ?_,
    rfl, rfl, rfl, by decide, by decide⟩
  obtain ⟨hcodes, hout⟩ := Config.ext_of_wf hwf
  rw [exec_ofKey, State.extendedKey, Config.ext_code hcodes, State.resolved_eq, if_neg (hout k)]
  rfl

/-- Settles O26: tests 6 and 7 of R51, and the class's meaning as it stands. -/
theorem unlistedExtendedCodeEmitsNothing : Obligations.UnlistedExtendedCodeEmitsNothing := by
  unfold Obligations.UnlistedExtendedCodeEmitsNothing
  refine ⟨fun cfg c w hF0 hE0 h12 h59 hb hm hext => ?_, fun _ _ => rfl⟩
  have hl := (isLookupCode_iff w).2 ⟨hF0, hE0, h12, h59⟩
  rw [decodeWord_of_lookup cfg hl hb, if_pos hm, decodeExtended, if_pos hext]

/-- Settles O27: test 9 of R51, and the entry of `T_S` emitted (`State.resolved_eq`). -/
theorem shiftedLookup : Obligations.ShiftedLookup := by
  unfold Obligations.ShiftedLookup
  refine ⟨fun cfg c w hlow h12 h59 hb hm hs => ?_, fun s w hlow => ?_⟩
  · simp [decodeWord_of_lookup cfg (isLookupCode_of_low hlow h12 h59) hb, hm, hs, hlow]
  · rw [← tableRead_of_low s.cfg.tS hlow]
    exact congrArg Host.Outcome.next (s.resolved_eq _)

/-- Settles O28: test 10 of R51, and the entry of `T_U` emitted (`State.resolved_eq`). -/
theorem unshiftedLookup : Obligations.UnshiftedLookup := by
  unfold Obligations.UnshiftedLookup
  refine ⟨fun cfg c w hlow h12 h59 hb hm hs => ?_, fun s w hlow => ?_⟩
  · simp [decodeWord_of_lookup cfg (isLookupCode_of_low hlow h12 h59) hb, hm, hs, hlow]
  · rw [← tableRead_of_low s.cfg.tU hlow]
    exact congrArg Host.Outcome.next (s.resolved_eq _)

/-- Settles O29: test 8 of R51, and the class's meaning as it stands. -/
theorem codeOutsideTheTablesEmitsNothing : Obligations.CodeOutsideTheTablesEmitsNothing := by
  unfold Obligations.CodeOutsideTheTablesEmitsNothing
  refine ⟨fun cfg c w hhigh hF0 hE0 hb hm => ?_, fun _ _ => rfl⟩
  have hl := isLookupCode_of_high (by simp [isKeyCode, hF0, hE0]) hhigh
  simp [decodeWord_of_lookup cfg hl hb, hm, hhigh]

/-! ## What the classes do to the shift latches and to the cache -/

/-- The shift latches after R80's iteration: each follows its own key, set by its press and cleared
by its release (R83 to R85). -/
theorem word_shift_latches (cfg : Config) (f : Flags) (w : Byte) :
    (Spec.word cfg f w).1.shiftLeft = (if w = 0x12#8 then !f.brk else f.shiftLeft) ∧
    (Spec.word cfg f w).1.shiftRight = (if w = 0x59#8 then !f.brk else f.shiftRight) := by
  by_cases hF0 : w = 0xF0#8
  · simp [Spec.word, hF0]
  by_cases hE0 : w = 0xE0#8
  · simp [Spec.word, hE0]
  cases hb : f.brk
  case true => simp [Spec.word, hF0, hE0, hb]
  by_cases h12 : w = 0x12#8
  · simp [Spec.word, hb, h12]
  by_cases h59 : w = 0x59#8
  · simp [Spec.word, hb, h59]
  · simp [Spec.word, hF0, hE0, hb, h12, h59]

/-- Settles O32: the flags after a word are those of R80's iteration (`exec_decodeWord`). -/
theorem shiftLatchesFollowTheirCodes : Obligations.ShiftLatchesFollowTheirCodes := by
  unfold Obligations.ShiftLatchesFollowTheirCodes
  intro s w
  refine ⟨_, exec_decodeWord s w, ?_⟩
  rw [State.wordDone_flags]
  exact word_shift_latches ..

/-- A returned character goes to the cache only for AVAILABLE (R120). -/
theorem State.answerChar_keeps_cache (s : State) (b : Byte) {u : DecodeUser} (hu : u ≠ .available) :
    (s.answerChar b u).cache = s.cache ∧ (s.answerChar b u).cacheValid = s.cacheValid := by
  cases u
  case available => exact absurd rfl hu
  all_goals exact ⟨rfl, rfl⟩

/-- An emitted byte goes to the cache only for AVAILABLE. -/
theorem State.emit_keeps_cache (s : State) (b : Byte) (hu : s.ctl.decodeUser ≠ .available) :
    (s.emit b).cache = s.cache ∧ (s.emit b).cacheValid = s.cacheValid := by
  by_cases h0 : b = 0#8
  · rw [h0, State.emit_zero]
    exact ⟨rfl, rfl⟩
  · rw [State.emit_of_ne h0]
    exact s.answerChar_keeps_cache b hu

/-- A word after which the loop goes on has emitted nothing. -/
theorem State.emit_of_busy {s : State} {b : Byte} (h : (s.emit b).ctl ≠ .idle) :
    s.emit b = s.continueLoop := by
  by_cases h0 : b = 0#8
  · rw [h0, State.emit_zero]
  · rw [State.emit_ctl, if_neg h0] at h
    exact absurd rfl h

/-- Settles O34: every class writes the flags and emits a byte (`exec_scan_eq`). -/
theorem scanWordsFrame : Obligations.ScanWordsFrame := by
  unfold Obligations.ScanWordsFrame
  intro i c s hp
  obtain ⟨f, b, hexec⟩ := exec_scan_eq hp s
  refine ⟨_, hexec, by simp, by simp, by simp, by simp, by simp, by simp,
    State.emit_keeps_cache { s with flags := f } b, fun hbusy => ?_⟩
  rw [State.emit_of_busy hbusy]
  exact ⟨rfl, rfl, rfl⟩

end Sys2Proof.Machine
end

section
/-! DECODE as R80's loop over the unread words, and what the operations that run the decoder, FLUSH
and BEGIN leave unchanged (41_decoder.md R80, 42_facade.md R120 to R123). -/

namespace Sys2Proof.Machine

/-! ## DECODE -/

/-- A decoder invocation takes exactly the words before those its loop leaves. -/
theorem State.unread_decoded {s : State} (r : s.Ring) (f : Flags) {rest : List Byte}
    (h : rest <:+ s.unread) : (Spec.decoded s f rest).unread = rest := by
  obtain ⟨taken, htaken⟩ := h
  have hlen := congrArg List.length htaken
  rw [List.length_append, State.length_unread] at hlen
  have hlt := State.occupancy_lt r
  have htail := r.tail_lt
  have hcount : s.unread.length - rest.length = taken.length := by
    rw [State.length_unread]
    omega
  have hgone : ((s.tail + taken.length) % s.cfg.N + s.cfg.N - s.tail) % s.cfg.N = taken.length := by
    rw [add_mod_cases htail (by omega)]
    split
    · rw [show s.tail + taken.length + s.cfg.N - s.tail = taken.length + s.cfg.N by omega,
        Nat.add_mod_right, Nat.mod_eq_of_lt (by omega)]
    · rw [show s.tail + taken.length - s.cfg.N + s.cfg.N - s.tail = taken.length by omega,
        Nat.mod_eq_of_lt (by omega)]
  have hdrop := State.unread_setTail r (Nat.mod_lt (s.tail + taken.length) (by omega)) (by omega)
  calc (Spec.decoded s f rest).unread
      = (s.setTail ((s.tail + taken.length) % s.cfg.N)).unread :=
        State.unread_congr rfl rfl rfl (congrArg (fun k => (s.tail + k) % s.cfg.N) hcount)
    _ = rest := by rw [hdrop, hgone, ← htaken, List.drop_left]

/-- DECODE answers the result of R80's loop, and writes nothing but `TAIL`, the flags and the
response. -/
theorem exec_decode_eq {s : State} (r : s.Ring) (hi : s.ctl = .idle) :
    exec .decode s = .next { Spec.decoded s (Spec.decodeWords s.cfg s.flags s.unread).2.1
      (Spec.decodeWords s.cfg s.flags s.unread).2.2 with
        rsp := .char (Spec.decodeWords s.cfg s.flags s.unread).1 } := by
  rw [exec_decode_of_idle hi, State.runDecoder_eq_decodeDone r]
  obtain ⟨_ | c, f, rest⟩ := Spec.decodeWords s.cfg s.flags s.unread <;> rfl

/-- Settles O35: a decoder invocation is R80's loop (`State.runDecoder_eq_decodeDone`), and the words
it leaves are the last ones (`decodeWords_suffix`). -/
theorem decodeRunsTheLoop : Obligations.DecodeRunsTheLoop := by
  unfold Obligations.DecodeRunsTheLoop
  refine ⟨fun _ => rfl, fun s hs hi => ?_⟩
  have r := State.ring_of_inv hs
  exact ⟨exec_decode_eq r hi, State.unread_decoded r _ (decodeWords_suffix ..)⟩

/-! ## The four words that clear every flag -/

/-- The word 0xF0 and a key-identifying code release that key, whatever was pending. -/
theorem decodeWords_release (cfg : Config) (f : Flags) {k : Byte} (hF0 : k ≠ 0xF0#8)
    (hE0 : k ≠ 0xE0#8) (ws : List Byte) :
    Spec.decodeWords cfg f (0xF0#8 :: k :: ws) = Spec.decodeWords cfg (f.release k) ws := by
  simp [Spec.decodeWords, Spec.word, hF0, hE0, Flags.release]

/-- The two shift releases lead to all flags clear, and yield nothing. -/
theorem decodeWords_shift_releases (cfg : Config) (f : Flags) :
    Spec.decodeWords cfg f [0xF0#8, 0x12#8, 0xF0#8, 0x59#8] = (.none, Flags.clear, []) := by
  rw [decodeWords_release cfg f (by decide) (by decide),
    decodeWords_release cfg _ (by decide) (by decide)]
  rfl

/-- Settles O33: the two shift releases on the list of words, and DECODE as the loop over it. -/
theorem fourWordsClearEveryFlag : Obligations.FourWordsClearEveryFlag := by
  unfold Obligations.FourWordsClearEveryFlag
  refine fun cfg f => ⟨decodeWords_shift_releases cfg f, fun s _ _ hs hi hunread => ?_⟩
  have r := State.ring_of_inv hs
  have hexec := exec_decode_eq r hi
  rw [hunread, decodeWords_shift_releases] at hexec
  exact ⟨_, hexec, rfl, rfl, State.unread_decoded r Flags.clear List.nil_suffix⟩

/-! ## What the operations leave unchanged -/

/-- The decoder's loop writes the cache only for AVAILABLE. -/
theorem decodeLoop_keeps_cache {n : Nat} {s t : State} (hu : s.ctl.decodeUser ≠ .available)
    (h : decodeLoop n s = .next t) : t.cache = s.cache ∧ t.cacheValid = s.cacheValid := by
  induction n generalizing s with
  | zero =>
    cases h
    exact ⟨rfl, rfl⟩
  | succ n ih =>
    unfold decodeLoop at h
    by_cases he : s.head = s.tail
    · rw [if_pos he] at h
      cases h
      simp
    rw [if_neg he, runWord_eq_word] at h
    simp only at h
    have hword : (s.advanceTail.wordDone s.peekByte).cache = s.cache ∧
        (s.advanceTail.wordDone s.peekByte).cacheValid = s.cacheValid :=
      State.emit_keeps_cache _ _ hu
    split at h
    case isTrue =>
      cases h
      exact hword
    case isFalse hbusy =>
      have hgo := (s.advanceTail.wordDone_ctl s.peekByte).resolve_left hbusy
      obtain ⟨hcache, hvalid⟩ := ih (by rw [hgo]; exact hu) h
      exact ⟨hcache.trans hword.1, hvalid.trans hword.2⟩

/-- What a decoder invocation leaves unchanged. -/
theorem State.runDecoder_frame {s t : State} {u : DecodeUser} (h : s.runDecoder u = .next t) :
    t.cfg = s.cfg ∧ t.buf = s.buf ∧ t.head = s.head ∧ t.cfgOut = s.cfgOut ∧ t.inputs = s.inputs ∧
      (u ≠ .available → t.cache = s.cache ∧ t.cacheValid = s.cacheValid) := by
  obtain ⟨t', ht', hcfg, hbuf, hhead, hout, hin⟩ :=
    decodeLoop_frame s.cfg.N { s with ctl := .popHead (.word u) }
  cases ht'.symm.trans h
  exact ⟨hcfg, hbuf, hhead, hout, hin, fun hu =>
    decodeLoop_keeps_cache (s := { s with ctl := .popHead (.word u) }) hu h⟩

/-- Settles O43: the operations that run the decoder by `State.runDecoder_frame`, unless a cached
character answers; FLUSH and BEGIN by the fields they write. -/
theorem facadeOperationsFrame : Obligations.FacadeOperationsFrame := by
  unfold Obligations.FacadeOperationsFrame
  refine ⟨?decoder, fun s t h => ?flush, fun s t h => ?begin⟩
  case decoder =>
    rintro i s t (rfl | rfl | rfl) h
    · obtain ⟨hcfg, hbuf, hhead, hout, hin, hcache⟩ :=
        State.runDecoder_frame (State.whenIdle_eq_next h).2
      simp [hcfg, hbuf, hhead, hout, hin, hcache]
    all_goals
      obtain ⟨-, hrun⟩ := State.whenIdle_eq_next h
      split at hrun
      case isTrue =>
        cases hrun
        simp
      case isFalse hv =>
        obtain ⟨hcfg, hbuf, hhead, hout, hin, hcache⟩ := State.runDecoder_frame hrun
        simp [hcfg, hbuf, hhead, hout, hin, hcache, hv]
  case flush =>
    obtain ⟨-, ⟨⟩⟩ := State.whenIdle_eq_next h
    simp +contextual [State.flushCache_cacheValid]
  case begin =>
    obtain ⟨-, ⟨⟩⟩ := State.whenIdle_eq_next h
    simp

end Sys2Proof.Machine
end

section
/-! A DECODE against a producer that never stops (41_decoder.md R109): the word 0xF0 pushed in every
round keeps it in its loop. -/

namespace Sys2Proof.Machine

/-- A DECODE to be issued, or in its loop before POP.1. -/
def State.beforeWord (s : State) : Prop := s.ctl = .idle ∨ s.ctl = .popHead (.word .decode)

/-- The three micro-step lines of one loop iteration take the oldest word and run it. -/
theorem runLines_decode_word {s : State} (hc : s.beforeWord) (hne : s.head ≠ s.tail)
    (ls : List Input) :
    s.runLines (.micro 2#3 :: .micro 2#3 :: .micro 2#3 :: ls) =
      (s.advanceTail.wordDone s.peekByte).runLines ls := by
  have h1 : s.microLine 2#3 = .next { s with ctl := .popSlot (.word .decode) } := by
    rcases hc with hi | hc
    · exact (State.microLine_of_idle (by decide) hi).trans
        (State.microStep_of_nonempty (s := s.start 2#3) (u := .word .decode) rfl hne)
    · exact (State.microLine_of_code (by decide) (by rw [hc]; rfl)).trans
        (State.microStep_of_nonempty hc hne)
  have h2 : ({ s with ctl := .popSlot (.word .decode) } : State).microLine 2#3 =
      .next { s with ctl := .popTail (.word .decode) s.peekByte } :=
    State.microLine_of_code (by decide) rfl
  have h3 : ({ s with ctl := .popTail (.word .decode) s.peekByte } : State).microLine 2#3 =
      .next (s.advanceTail.wordDone s.peekByte) := by
    refine (State.microLine_of_code (by decide) rfl).trans ((runWord_eq_word _ _).trans ?_)
    have huser : Ctl.decodeUser (.popTail (.word .decode) s.peekByte) =
        s.advanceTail.ctl.decodeUser := by
      rcases hc with hc | hc <;> rw [State.advanceTail_ctl, hc] <;> rfl
    exact congrArg _ (s.advanceTail.wordDone_withCtl huser s.peekByte)
  rw [State.runLines_micro h1, State.runLines_micro h2, State.runLines_micro h3]

/-- A byte pushed onto an empty ring is the only unread one. -/
theorem State.pushByte_of_empty {s : State} (hS : s.Sound) (he : s.head = s.tail) (b : Byte) :
    (s.pushByte b).head ≠ (s.pushByte b).tail ∧ (s.pushByte b).peekByte = b ∧
      (s.pushByte b).advanceTail.unread = [] := by
  have hroom : s.nextHead ≠ s.tail := by
    have h2 := hS.two_le
    have hocc := (State.occupancy_eq_zero_iff hS.ring).2 he
    rw [Ne, State.full_iff hS.ring]
    omega
  have hone : (s.pushByte b).unread = [b] := by
    rw [State.unread_pushByte_room hS.ring hS.buf_wf b hroom, State.unread_of_empty he,
      List.nil_append]
  have r := (hS.pushByte b).ring
  have hne : (s.pushByte b).head ≠ (s.pushByte b).tail := by
    rw [Ne, ← State.unread_eq_nil_iff r, hone]
    exact List.cons_ne_nil b []
  obtain ⟨hpeek, hrest⟩ := List.cons.inj ((State.unread_eq_cons r hne).symm.trans hone)
  exact ⟨hne, hpeek, hrest⟩

/-- One round of the producer and the decoder: the word 0xF0 is pushed, and an iteration of DECODE's
loop takes it. -/
def breakRound : List Input := [.rx 0xF0#8, .micro 2#3, .micro 2#3, .micro 2#3]

/-- A DECODE that has found nothing yet: it stands before its next word with the ring empty. -/
structure State.Starved (s : State) : Prop where
  inv : s.inv = true
  before : s.beforeWord
  empty : s.head = s.tail

/-- After a round DECODE is in its loop, as starved as before. -/
theorem runLines_breakRound {s : State} (h : s.Starved) (ls : List Input) :
    ∃ t : State, s.runLines (breakRound ++ ls) = t.runLines ls ∧ t.Starved ∧
      t.ctl = .popHead (.word .decode) ∧ t.rsp = s.rsp := by
  obtain ⟨hs, hc, he⟩ := h
  have hS := (s.inv_iff_sound.1 hs).1
  obtain ⟨hne, hpeek, hrest⟩ := State.pushByte_of_empty hS he 0xF0#8
  have hS' := (hS.pushByte 0xF0#8).advanceTail
  have hctl : (s.pushByte 0xF0#8).advanceTail.ctl = s.ctl := s.pushByte_ctl _
  have huser : s.ctl.decodeUser = .decode := by
    rcases hc with hc | hc <;> rw [hc] <;> rfl
  have hloop : ((s.pushByte 0xF0#8).advanceTail.wordDone 0xF0#8).ctl = .popHead (.word .decode) := by
    rw [← huser, ← hctl]
    rfl
  refine ⟨(s.pushByte 0xF0#8).advanceTail.wordDone 0xF0#8, ?_, ⟨?_, .inr hloop, ?_⟩, hloop, ?_⟩
  · refine (s.runLines_rx _ _).trans ((runLines_decode_word ?_ hne ls).trans (by rw [hpeek]))
    exact hc.imp (s.pushByte_ctl _).trans (s.pushByte_ctl _).trans
  · exact hS'.inv_wordDone _ (by rw [hctl, huser]; rfl)
  · rw [State.wordDone_head, State.wordDone_tail]
    exact (State.unread_eq_nil_iff hS'.ring).1 hrest
  · exact s.pushByte_rsp _

/-- After any number of rounds DECODE is in its loop. -/
theorem runLines_breakRounds {s : State} (h : s.Starved) (n : Nat) :
    ∃ t, s.runLines (List.replicate (n + 1) breakRound).flatten = .next t ∧
      t.ctl = .popHead (.word .decode) ∧ t.rsp = s.rsp := by
  induction n generalizing s with
  | zero =>
    obtain ⟨t, hrun, -, hloop, hrsp⟩ := runLines_breakRound h []
    exact ⟨_, hrun.trans t.runLines_nil, hloop, hrsp⟩
  | succ n ih =>
    obtain ⟨a, hround, ha, -, hrsp⟩ := runLines_breakRound h (List.replicate (n + 1) breakRound).flatten
    obtain ⟨t, hrun, hloop, hrsp'⟩ := ih ha
    exact ⟨t, hround.trans hrun, hloop, hrsp'.trans hrsp⟩

/-- Settles O53: every round pushes the word 0xF0 and takes it (`runLines_breakRounds`). -/
theorem decodeMayRunForever : Obligations.DecodeMayRunForever := by
  unfold Obligations.DecodeMayRunForever
  exact fun s n hs hi he => runLines_breakRounds ⟨hs, .inl hi, he⟩ n

end Sys2Proof.Machine
end

section
/-! The operations of the facade in full (42_facade.md R120 to R123). -/

namespace Sys2Proof.Machine

/-! ## AVAILABLE and READ -/

/-- With a cached character AVAILABLE writes its answer alone. -/
theorem exec_available_peeks {s : State} (hi : s.ctl = .idle) (hv : s.cacheValid = true) :
    exec .available s = .next { s with rsp := .bool true } := by
  rw [exec_available_of_cached hi hv, State.finish_of_idle hi]

/-- Settles O36: a cached character answers at once (`exec_available_peeks`), and with an empty cache
AVAILABLE is R80's loop (`State.runDecoder_eq_decodeDone`). -/
theorem availablePeeks : Obligations.AvailablePeeks := by
  unfold Obligations.AvailablePeeks
  refine ⟨fun _ => rfl, fun s hs hi => ⟨exec_available_peeks hi, fun hv => ?_⟩⟩
  rw [exec_available_of_uncached hi hv, State.runDecoder_eq_decodeDone (State.ring_of_inv hs)]
  obtain ⟨_ | c, f, rest⟩ := Spec.decodeWords s.cfg s.flags s.unread <;> rfl

/-- Settles O37: a cached character is taken, and with an empty cache READ answers what R80's loop
yields (`State.runDecoder_eq_decodeDone`). -/
theorem readReturnsTheNextCharacter : Obligations.ReadReturnsTheNextCharacter := by
  unfold Obligations.ReadReturnsTheNextCharacter
  refine ⟨fun _ => rfl, fun s hs hi => ⟨fun hv => ?cached, fun hv => ?uncached⟩⟩
  case cached =>
    rw [exec_read_of_cached hi hv, State.takeCached]
    exact congrArg _ (State.finish_of_idle (s := { s with cacheValid := false }) hi _)
  case uncached =>
    rw [exec_read_of_uncached hi hv, State.runDecoder_eq_decodeDone (State.ring_of_inv hs)]
    obtain ⟨_ | c, f, rest⟩ := Spec.decodeWords s.cfg s.flags s.unread <;> rfl

/-! ## FLUSH and BEGIN -/

theorem exec_begin_of_idle {s : State} (hi : s.ctl = .idle) :
    exec .beginOp s = .next (State.finish { s.issueConfig with head := 0, tail := 0 } .done) :=
  State.whenIdle_of_idle hi _

/-- Settles O38: `TAIL` follows `HEAD`, and the cache part is one write (`State.flushCache_eq`). -/
theorem flushDropsRawBytes : Obligations.FlushDropsRawBytes := by
  unfold Obligations.FlushDropsRawBytes
  refine ⟨fun _ => rfl, fun s hi => ?_⟩
  rw [exec_flush_of_idle hi, State.flushCache_eq, State.finish, hi]
  rfl

/-- Settles O39: the request is issued (`State.issueConfig`), and the end of the operation writes the
response alone. -/
theorem beginConfiguresAndEmpties : Obligations.BeginConfiguresAndEmpties := by
  unfold Obligations.BeginConfiguresAndEmpties
  refine ⟨fun _ => rfl, fun s hi => ?_⟩
  rw [exec_begin_of_idle hi, State.finish, hi]
  rfl

end Sys2Proof.Machine
end

section
/-! AVAILABLE as an idempotent peek (42_facade.md R125): what an AVAILABLE leaves behind, and which
steps keep a cached character. -/

namespace Sys2Proof.Machine

/-! ## What an AVAILABLE leaves -/

/-- R80's loop that finds no character has taken every word. -/
theorem decodeWords_rest_of_none {cfg : Config} {f : Flags} {ws : List Byte}
    (h : (Spec.decodeWords cfg f ws).1 = .none) : (Spec.decodeWords cfg f ws).2.2 = [] := by
  induction ws generalizing f with
  | nil => rfl
  | cons w ws ih =>
    rw [Spec.decodeWords] at h ⊢
    split at h
    · cases h
    · exact ih h

/-- AVAILABLE leaves a character cached, which the next AVAILABLE finds, or an empty ring and an empty
cache. -/
theorem exec_available_peek_or_empty {s : State} (r : s.Ring) (hi : s.ctl = .idle) :
    ∃ t, exec .available s = .next t ∧
      (t.rsp = .bool true → t.cacheValid = true ∧ exec .available t = .next t) ∧
      (t.rsp = .bool false → t.unread = [] ∧ t.cacheValid = false) := by
  cases hv : s.cacheValid with
  | true =>
    exact ⟨s.finish (.bool true), exec_available_of_cached hi hv,
      fun _ => ⟨hv, exec_available_of_cached rfl hv⟩, nofun⟩
  | false =>
    refine ⟨_, (exec_available_of_uncached hi hv).trans (State.runDecoder_eq_decodeDone r _), ?_⟩
    have hsuffix := decodeWords_suffix s.cfg s.flags s.unread
    have hrest := decodeWords_rest_of_none (cfg := s.cfg) (f := s.flags) (ws := s.unread)
    rcases hd : Spec.decodeWords s.cfg s.flags s.unread with ⟨_ | c, f, rest⟩ <;>
      rw [hd] at hsuffix hrest
    · exact ⟨nofun, fun _ => ⟨(State.unread_decoded r f hsuffix).trans (hrest rfl), hv⟩⟩
    · exact ⟨fun _ => ⟨rfl, exec_available_of_cached rfl rfl⟩, nofun⟩

/-! ## What keeps a cached character -/

/-- A micro-step keeps a cached character, except the end of a FLUSH that clears the cache: the decoder
runs for AVAILABLE only while the cache is empty. -/
theorem State.Moves.keeps_cached {s t : State} (h : s.Moves t) (hs : s.inv = true)
    (hv : s.cacheValid = true)
    (hflush : s.cfg.flushClearsCache = true → ∀ i, s.ctl ≠ .clearTail .flush i) :
    t.cacheValid = true ∧ t.cache = s.cache := by
  cases h
  case word u b hc =>
    obtain ⟨-, -, hfree⟩ := (State.ctlInv_popTail hc).1 (s.inv_iff_sound.1 hs).2
    have hu : s.ctl.decodeUser ≠ .available := by
      rw [hc]
      rintro rfl
      simp [State.cacheFreeFor, hv] at hfree
    obtain ⟨hcache, hvalid⟩ := State.emit_keeps_cache
      { s.advanceTail with flags := (Spec.word s.cfg s.flags b).1 }
      ((Spec.word s.cfg s.flags b).2.getD 0#8) hu
    exact ⟨hvalid.trans hv, hcache⟩
  case clearTail u i hc =>
    cases u with
    | clear => exact ⟨hv, rfl⟩
    | flush =>
      have hkeep : ¬ s.cfg.flushClearsCache = true := fun hf => hflush hf i hc
      simp [State.endClear, State.flushCache_cacheValid, hkeep, hv]
  all_goals simp [hv]

/-- A chain of micro-steps of an operation other than a FLUSH that clears the cache keeps a cached
character. -/
theorem MicroRun.keeps_cached {s t : State} (h : MicroRun s t) (hs : s.inv = true)
    (hv : s.cacheValid = true)
    (hflush : s.cfg.flushClearsCache = true → s.ctl.code ≠ some 5#3) :
    t.cacheValid = true ∧ t.cache = s.cache := by
  refine (h.keeps (P := fun a => a.inv = true ∧
    (a.cfg.flushClearsCache = true → a.ctl.code ≠ some 5#3) ∧
    a.cacheValid = true ∧ a.cache = s.cache) ?_ ⟨hs, hflush, hv, rfl⟩).2.2
  rintro a b ⟨ha, hfa, hva, hca⟩ hab
  have hmove := State.moves_of_microStep hab
  obtain ⟨hvb, hcb⟩ := hmove.keeps_cached ha hva fun hf i hc => hfa hf (by rw [hc]; rfl)
  refine ⟨hmove.keeps_inv ha, fun hf => ?_, hvb, hcb.trans hca⟩
  rw [(State.microStep_frame hab).1] at hf
  rcases hmove.code with e | e <;> rw [e]
  · exact nofun
  · exact hfa hf

/-- Only READ takes a cached character when it is issued. -/
theorem State.start_cacheValid (s : State) {op : Cmd} (h : op ≠ 4#3) :
    (s.start op).cacheValid = s.cacheValid := by
  rcases cmd_cases op with rfl | rfl | rfl | rfl | rfl | rfl | rfl | rfl
  case inr.inr.inr.inl =>
    rw [State.start_available]
    split <;> rfl
  case inr.inr.inr.inr.inl => exact absurd rfl h
  all_goals rfl

/-- Issuing an operation other than READ keeps the invariant and a cached character. -/
theorem State.start_keeps_cached {s : State} (hs : s.inv = true) (hv : s.cacheValid = true) {op : Cmd}
    (h : op ≠ 4#3) : (s.start op).inv = true ∧ (s.start op).cacheValid = true ∧
      (s.start op).cache = s.cache :=
  ⟨State.inv_start hs op, (s.start_cacheValid h).trans hv, s.start_cache op⟩

/-- A step keeps a cached character until a READ, or a FLUSH that clears the cache. -/
theorem StepTo.keeps_cached {s t : State} (h : StepTo s t) (hs : s.inv = true)
    (hv : s.cacheValid = true)
    (hread : ∀ rest, s.inputs ≠ .cmd 4#3 :: rest ∧ s.inputs ≠ .micro 4#3 :: rest)
    (hflush : s.cfg.flushClearsCache = true → ∀ rest, s.inputs ≠ .cmd 5#3 :: rest)
    (htail : s.cfg.flushClearsCache = true → ∀ i, s.ctl ≠ .clearTail .flush i) :
    t.cacheValid = true ∧ t.cache = s.cache := by
  cases h with
  | push b rest hl ht =>
    exact ht ▸ ⟨(State.pushByte_cacheValid ..).trans hv, State.pushByte_cache ..⟩
  | whole op rest hl hi hrun =>
    have hop : op ≠ 4#3 := by
      rintro rfl
      exact (hread rest).1 hl
    obtain ⟨ha, hva, hca⟩ := State.start_keeps_cached (State.inv_withInputs hs rest) hv hop
    have hnoflush (hf : ((s.withInputs rest).start op).cfg.flushClearsCache = true) :
        ((s.withInputs rest).start op).ctl.code ≠ some 5#3 := by
      rw [State.start_cfg] at hf
      rcases State.start_code (s := s.withInputs rest) hi op with e | e <;> rw [e]
      · exact nofun
      · rintro ⟨⟩
        exact hflush hf rest hl
    obtain ⟨hvt, hct⟩ := hrun.keeps_cached ha hva hnoflush
    exact ⟨hvt, hct.trans hca⟩
  | first op rest hl hi hstep =>
    have hop : op ≠ 4#3 := by
      rintro rfl
      exact (hread rest).2 hl
    obtain ⟨ha, hva, hca⟩ := State.start_keeps_cached (State.inv_withInputs hs rest) hv hop
    have hplace (i : Nat) : ((s.withInputs rest).start op).ctl ≠ .clearTail .flush i := by
      rcases State.start_ctl (s := s.withInputs rest) hi op with e | ⟨u, e⟩ | ⟨u, e⟩ | e <;>
        rw [e] <;> exact nofun
    obtain ⟨hvt, hct⟩ := (State.moves_of_microStep hstep).keeps_cached ha hva fun _ => hplace
    exact ⟨hvt, hct.trans hca⟩
  | onward rest hl hstep => exact (State.moves_of_microStep hstep).keeps_cached hs hv htail

/-- Settles O41, by `exec_available_peek_or_empty` and `StepTo.keeps_cached`. -/
theorem availableIsIdempotent : Obligations.AvailableIsIdempotent := by
  unfold Obligations.AvailableIsIdempotent
  refine ⟨fun s hs => exec_available_peek_or_empty (State.ring_of_inv hs),
    fun s => exec_available_peeks, fun s t hs hv h hread hflush htail => ?_⟩
  exact (step_cases h).keeps_cached hs hv hread (fun hf rest => (hflush hf rest).1) htail

end Sys2Proof.Machine
end

section
/-! What a step answers (R130): a next state on an admitted line, the refusal of R64 on the reserved
code, and the refusal of R157 on a consumer line that overlaps the operation in progress. -/

namespace Sys2Proof.Machine

/-! ## Lines that overlap the operation in progress -/

/-- A whole consumer operation issued while another is in progress is refused (R157). -/
theorem step_cmd_overlapping {s : State} {op : Cmd} {rest : List Input} (h7 : op ≠ 7#3)
    (hbusy : s.ctl ≠ .idle) (hl : s.inputs = .cmd op :: rest) :
    step s = .refused .overlappingConsumer := by
  obtain ⟨t, ht⟩ := exec_cmd_eq_whenIdle (s.withInputs rest) h7
  calc step s = exec (decodeCmd op) (s.withInputs rest) := step_of_cmd hl
    _ = (s.withInputs rest).whenIdle (.next t) := ht
    _ = .refused .overlappingConsumer := State.whenIdle_of_busy hbusy _

/-- A micro-step of an operation other than the one in progress is refused (R157). -/
theorem step_micro_overlapping {s : State} {op : Cmd} {rest : List Input} (h7 : op ≠ 7#3)
    (hbusy : s.ctl ≠ .idle) (hl : s.inputs = .micro op :: rest) (hother : s.ctl.code ≠ some op) :
    step s = .refused .overlappingConsumer := by
  rw [step_of_micro hl, State.microLine, if_neg h7, if_neg hbusy, if_neg hother]

/-- Settles O54, by one lemma for each of the two lines. -/
theorem overlappingConsumerIsRefused : Obligations.OverlappingConsumerIsRefused := by
  unfold Obligations.OverlappingConsumerIsRefused
  exact fun s op rest h7 hbusy => ⟨step_cmd_overlapping h7 hbusy, step_micro_overlapping h7 hbusy⟩

/-! ## Admitted lines -/

theorem State.admits_of_nil {s : State} (hl : s.inputs = []) : s.admits = true := by
  rw [State.admits, hl]

theorem State.admits_of_rx {s : State} {b : Byte} {rest : List Input}
    (hl : s.inputs = .rx b :: rest) : s.admits = true := by
  rw [State.admits, hl]

theorem State.admits_cmd_iff {s : State} {op : Cmd} {rest : List Input}
    (hl : s.inputs = .cmd op :: rest) : s.admits = true ↔ op ≠ 7#3 ∧ s.ctl = .idle := by
  simp [State.admits, hl]

theorem State.admits_micro_iff {s : State} {op : Cmd} {rest : List Input}
    (hl : s.inputs = .micro op :: rest) :
    s.admits = true ↔ op ≠ 7#3 ∧ (s.ctl = .idle ∨ s.ctl.code = some op) := by
  simp [State.admits, hl]

/-- A whole consumer operation answers when none is in progress. -/
theorem step_cmd_next {s : State} {op : Cmd} {rest : List Input} (h7 : op ≠ 7#3)
    (hi : s.ctl = .idle) (hl : s.inputs = .cmd op :: rest) : ∃ t, step s = .next t := by
  obtain ⟨t, ht⟩ := exec_cmd_eq_whenIdle (s.withInputs rest) h7
  refine ⟨t, ?_⟩
  calc step s = exec (decodeCmd op) (s.withInputs rest) := step_of_cmd hl
    _ = (s.withInputs rest).whenIdle (.next t) := ht
    _ = .next t := State.whenIdle_of_idle hi _

/-- A micro-step line answers when its operation is in progress, or none is. -/
theorem step_micro_next {s : State} {op : Cmd} {rest : List Input} (h7 : op ≠ 7#3)
    (hown : s.ctl = .idle ∨ s.ctl.code = some op) (hl : s.inputs = .micro op :: rest) :
    ∃ t, step s = .next t := by
  have hstep : step s = (s.withInputs rest).microLine op := step_of_micro hl
  rcases hown with hi | hc
  · rw [hstep, State.microLine_of_idle (s := s.withInputs rest) h7 hi]
    exact State.microStep_next _
  · rw [hstep, State.microLine_of_code (s := s.withInputs rest) h7 hc]
    exact State.microStep_next _

/-- A step answers whenever its trace line is within the preconditions (R130). -/
theorem step_next_of_admits {s : State} (h : s.admits = true) : ∃ t, step s = .next t := by
  match hl : s.inputs with
  | [] =>
    rw [step_of_nil hl]
    exact s.microStep_next
  | .rx b :: rest => exact ⟨_, step_rx hl⟩
  | .cmd op :: rest =>
    obtain ⟨h7, hi⟩ := (State.admits_cmd_iff hl).1 h
    exact step_cmd_next h7 hi hl
  | .micro op :: rest =>
    obtain ⟨h7, hown⟩ := (State.admits_micro_iff hl).1 h
    exact step_micro_next h7 hown hl

/-- A step outside the preconditions is refused: its line holds the reserved code, or it overlaps
(R64, R157). -/
theorem step_refused_of_not_admits {s : State} (h : s.admits ≠ true) :
    step s = .refused .reservedCommand ∨ step s = .refused .overlappingConsumer := by
  match hl : s.inputs with
  | [] => exact absurd (State.admits_of_nil hl) h
  | .rx b :: rest => exact absurd (State.admits_of_rx hl) h
  | .cmd op :: rest =>
    by_cases h7 : op = 7#3
    · exact .inl (step_of_reserved (.inl (h7 ▸ hl)))
    · have hbusy : s.ctl ≠ .idle := fun hi => h ((State.admits_cmd_iff hl).2 ⟨h7, hi⟩)
      exact .inr (step_cmd_overlapping h7 hbusy hl)
  | .micro op :: rest =>
    by_cases h7 : op = 7#3
    · exact .inl (step_of_reserved (.inr (h7 ▸ hl)))
    · have hforeign : ¬ (s.ctl = .idle ∨ s.ctl.code = some op) := fun hown =>
        h ((State.admits_micro_iff hl).2 ⟨h7, hown⟩)
      obtain ⟨hbusy, hother⟩ := not_or.1 hforeign
      exact .inr (step_micro_overlapping h7 hbusy hl hother)

/-- Settles O5, by the two sides of `State.admits`. -/
theorem noStepFaults : Obligations.NoStepFaults := by
  unfold Obligations.NoStepFaults
  exact fun s => ⟨step_next_of_admits, fun h => step_refused_of_not_admits (ne_true_of_eq_false h)⟩

end Sys2Proof.Machine
end

section
/-! Reset (70_reset_and_hazards.md R150, R151): cold reset, BEGIN as a partial reset, and BEGIN with
PUSHes between its micro-steps (R158). -/

namespace Sys2Proof.Machine

/-! ## Cold and warm reset -/

/-- Settles O1: the fields of `State.reset`, with equal indices and so nothing unread. -/
theorem coldResetState : Obligations.ColdResetState := by
  unfold Obligations.ColdResetState
  exact ⟨rfl, rfl, rfl, rfl, rfl, rfl, rfl, State.unread_of_empty rfl⟩

/-- Settles O42: a BEGIN writes the indices, the response and the requests alone
(`exec_begin_of_idle`), and at cold reset the indices are 0 before it. -/
theorem beginIsAPartialReset : Obligations.BeginIsAPartialReset := by
  unfold Obligations.BeginIsAPartialReset
  exact ⟨⟨_, exec_begin_of_idle rfl, rfl⟩,
    fun s hi => ⟨_, exec_begin_of_idle hi, rfl, rfl, rfl, rfl, rfl, rfl⟩⟩

/-! ## BEGIN with PUSHes between its three micro-steps -/

/-- The block as BEGIN.2 leaves it, but for the operation in progress: the request issued, the PUSHes
after BEGIN.1 run, and `HEAD` 0. -/
def State.beginZeroed (s : State) (bs : List Byte) : State :=
  { s.issueConfig.pushBytes bs with head := 0 }

/-- Of the PUSHes between BEGIN.1 and BEGIN.2 only what they stored is left. -/
theorem State.beginZeroed_frame (s : State) (bs : List Byte) :
    ∃ m, s.beginZeroed bs = { s.issueConfig with buf := m, head := 0 } := by
  obtain ⟨m, i, hframe⟩ := s.issueConfig.pushBytes_frame bs
  refine ⟨m, ?_⟩
  rw [State.beginZeroed, hframe]

theorem State.Sound.beginZeroed {s : State} (h : s.Sound) (bs : List Byte) :
    (s.beginZeroed bs).Sound := by
  have hpushed := (h.withRest s.ctl s.flags s.issueConfig.cfgOut s.inputs).pushBytes bs
  exact hpushed.setHead (Nat.zero_lt_of_lt hpushed.head_lt)

/-- With `HEAD` 0 there is room up to the old `TAIL`, and for N - 1 bytes where that is 0 too (R70). -/
theorem State.room_of_head_zero {s : State} (r : s.Ring) (hhead : s.head = 0) :
    s.cfg.N - 1 - s.occupancy = if s.tail = 0 then s.cfg.N - 1 else s.tail - 1 := by
  have htail := r.tail_lt
  rw [State.occupancy_eq r, hhead]
  split_ifs <;> omega

/-- BEGIN.2 writes `HEAD` in the ring that the PUSHes before it left, and BEGIN.3 writes `TAIL` behind
the bytes pushed from slot 1 on. -/
theorem runLines_begin_between_pushes {s : State} (hi : s.ctl = .idle) (bs cs : List Byte) :
    s.runLines (.micro 6#3 :: (rxLines bs ++ .micro 6#3 :: (rxLines cs ++ [.micro 6#3]))) =
      .next (((((s.beginZeroed bs).pushBytes cs).setTail 0).finish .done).withInputs []) := by
  have h1 : s.microLine 6#3 = .next { s.issueConfig with ctl := .beginHead } :=
    State.microLine_of_idle (by decide) hi
  rw [State.runLines_micro h1, State.runLines_rxLines, State.pushBytes_withCtl]
  have h2 : ({ s.issueConfig.pushBytes bs with ctl := .beginHead } : State).microLine 6#3 =
      .next { s.beginZeroed bs with ctl := .beginTail } := State.microLine_of_code (by decide) rfl
  rw [State.runLines_micro h2, State.runLines_rxLines, State.pushBytes_withCtl]
  have h3 : ({ (s.beginZeroed bs).pushBytes cs with ctl := .beginTail } : State).microLine 6#3 =
      .next ((((s.beginZeroed bs).pushBytes cs).setTail 0).finish .done) :=
    State.microLine_of_code (by decide) rfl
  exact State.runLines_micro h3 []

/-- BEGIN.3 sets `TAIL` to the `HEAD` that BEGIN.2 wrote, as the last micro-step of a CLEAR that had
read that `HEAD` would, so the bytes pushed between the two are left
(`State.unread_pushBytes_setTail`). -/
theorem State.unread_beginZeroed_pushBytes_setTail {s : State} (hS : s.Sound) (bs cs : List Byte) :
    (((s.beginZeroed bs).pushBytes cs).setTail 0).unread =
      cs.take (if s.tail = 0 then s.cfg.N - 1 else s.tail - 1) := by
  have hZ := hS.beginZeroed bs
  have hkept : (((s.beginZeroed bs).pushBytes cs).setTail 0).unread = _ :=
    State.unread_pushBytes_setTail hZ cs
  rw [hkept, State.room_of_head_zero hZ.ring rfl]
  obtain ⟨m, hframe⟩ := s.beginZeroed_frame bs
  rw [hframe]
  rfl

/-- Settles O55: the run is that of `runLines_begin_between_pushes`, its unread bytes those of
`State.unread_beginZeroed_pushBytes_setTail`, and the PUSHes write the storage and `HEAD` alone. -/
theorem beginKeepsBytesPushedAfterItsWrite : Obligations.BeginKeepsBytesPushedAfterItsWrite := by
  unfold Obligations.BeginKeepsBytesPushedAfterItsWrite
  intro s bs cs hs hi
  have hS := (s.inv_iff_sound.1 hs).1
  have hrun := runLines_begin_between_pushes hi bs cs
  simp only [List.append_assoc, List.cons_append, List.nil_append]
  refine ⟨_, hrun, State.unread_beginZeroed_pushBytes_setTail hS bs cs, ?_⟩
  obtain ⟨m, hzeroed⟩ := s.beginZeroed_frame bs
  obtain ⟨m', i, hpushed⟩ := (s.beginZeroed bs).pushBytes_frame cs
  rw [hpushed, hzeroed]
  exact ⟨rfl, rfl, rfl, rfl, rfl, rfl⟩

end Sys2Proof.Machine
end
